-- ==== Sys2Proof/Word.lean ====
section
/-! DEFINITION. The word types of JU-CORE (00_scope.md R3, R14, R15): bytes, byte strings, 32-bit bus words,
18-bit bus addresses and 128-bit blocks. Only types stand here; every operation on them is in `Machine/`. -/

namespace Sys2Proof

/-- A byte, an integer 0..255 (R14). -/
abbrev Byte := BitVec 8

/-- A byte string: a finite sequence of bytes, byte 0 first (R14). -/
abbrev Bytes := List Byte

/-- A 32-bit bus word (R27, R63) and a 32-bit word of the hash (R220). -/
abbrev Word := BitVec 32

/-- An 18-bit bus byte address, an offset from the core's base (R60, R62). -/
abbrev Addr := BitVec 18

/-- A 128-bit register of 16 bytes (R24, R26); byte `i` stands in bits `8i+7:8i`, the lane order of R38 and R131. -/
abbrev Block := BitVec 128

end Sys2Proof
end

