-- ==== Sys2Proof/Syntax.lean ====
section
/-! DEFINITION. The instructions of JU-CORE: the classes of command words of 30_encoding.md R93, one constructor for
each row of the opcode table. The operands of a command are in IN_LEN0, IN_LEN1 and IN_BUF, not in the word (R90). -/

namespace Sys2Proof

/-- A decoded command word (R93, R94). -/
inductive Instr where
  /-- DERIVE, word 0x00000001 (R140). -/
  | derive
  /-- DECRYPT, word 0x00000002 (R157). -/
  | decrypt
  /-- ENCRYPT.LEGACY, word 0x00000003 (R172). -/
  | encryptLegacy
  /-- ENCRYPT.FRAMED, word 0x00000013 (R185). -/
  | encryptFramed
  /-- ENCRYPT.UNSUPPORTED fmt=2, word 0x00000023 (R159); the next ones are fmt=3 to fmt=15. -/
  | encryptUnsupportedFmt2
  | encryptUnsupportedFmt3
  | encryptUnsupportedFmt4
  | encryptUnsupportedFmt5
  | encryptUnsupportedFmt6
  | encryptUnsupportedFmt7
  | encryptUnsupportedFmt8
  | encryptUnsupportedFmt9
  | encryptUnsupportedFmt10
  | encryptUnsupportedFmt11
  | encryptUnsupportedFmt12
  | encryptUnsupportedFmt13
  | encryptUnsupportedFmt14
  | encryptUnsupportedFmt15
  /-- ILLEGAL: every word that is none of the others (R95), with its three fields (R90). -/
  | illegal (op fmt : BitVec 4) (rsvd : BitVec 24)
deriving DecidableEq, Repr

/-- Whether a command class is ILLEGAL, the one class that is never accepted (R150). -/
def Instr.isIllegal : Instr → Bool
  | .illegal _ _ _ => true
  | _ => false

end Sys2Proof
end

