-- ==== Sys2Proof/WellFormed.lean ====
section
/-! DEFINITION. When a term of `Instr` is the reading of some command word: the legal classes always, and an ILLEGAL
term exactly when its fields are those of an illegal word (30_encoding.md R95). -/

namespace Sys2Proof

/-- The fields of an illegal word: RSVD is not 0, or OP is none of 1, 2, 3, or OP is 1 or 2 with FMT not 0 (R95). -/
def illegalFields (op fmt : BitVec 4) (rsvd : BitVec 24) : Bool :=
  rsvd != 0 || (op != 1 && op != 2 && op != 3) || ((op == 1 || op == 2) && fmt != 0)

/-- Whether an instruction is well formed. -/
def Instr.wf : Instr → Bool
  | .illegal op fmt rsvd => illegalFields op fmt rsvd
  | _ => true

end Sys2Proof
end

