-- ==== Sys2Proof/Decode.lean ====
section
/-! DEFINITION. Decoding and encoding of the command word (30_encoding.md R90 to R96). Decode depends on the word alone
(R96) and is total over all 2^32 words (R93). -/

namespace Sys2Proof

/-- Why a byte string holds no command word. -/
inductive DecodeRefusal where
  /-- Fewer than the four bytes of a command word. Raised by `decode`; safe, since a bus write always carries 32 bits. -/
  | shortWord (length : Nat)
deriving DecidableEq, Repr

/-- The field OP, bits 3:0 (R90). -/
def cmdOp (w : Word) : BitVec 4 := w.extractLsb' 0 4

/-- The field FMT, bits 7:4 (R90). -/
def cmdFmt (w : Word) : BitVec 4 := w.extractLsb' 4 4

/-- The field RSVD, bits 31:8 (R90). -/
def cmdRsvd (w : Word) : BitVec 24 := w.extractLsb' 8 24

/-- The ENCRYPT class that a format selector names (R92). -/
def encryptClass (fmt : BitVec 4) : Instr :=
  match fmt.toNat with
  | 0 => .encryptLegacy
  | 1 => .encryptFramed
  | 2 => .encryptUnsupportedFmt2
  | 3 => .encryptUnsupportedFmt3
  | 4 => .encryptUnsupportedFmt4
  | 5 => .encryptUnsupportedFmt5
  | 6 => .encryptUnsupportedFmt6
  | 7 => .encryptUnsupportedFmt7
  | 8 => .encryptUnsupportedFmt8
  | 9 => .encryptUnsupportedFmt9
  | 10 => .encryptUnsupportedFmt10
  | 11 => .encryptUnsupportedFmt11
  | 12 => .encryptUnsupportedFmt12
  | 13 => .encryptUnsupportedFmt13
  | 14 => .encryptUnsupportedFmt14
  | _ => .encryptUnsupportedFmt15

/-- `decode(w)` of R93. -/
def decodeWord (w : Word) : Instr :=
  if cmdRsvd w ≠ 0 then .illegal (cmdOp w) (cmdFmt w) (cmdRsvd w)
  else if cmdOp w = 1 ∧ cmdFmt w = 0 then .derive
  else if cmdOp w = 2 ∧ cmdFmt w = 0 then .decrypt
  else if cmdOp w = 3 then encryptClass (cmdFmt w)
  else .illegal (cmdOp w) (cmdFmt w) (cmdRsvd w)

/-- A command word read from bytes, in the lane order of the bus, the byte of bits 7:0 first (R65; DEDUCED, log 14):
the class and the bytes after the word. -/
def decode : Bytes → Except DecodeRefusal (Instr × Bytes)
  | b0 :: b1 :: b2 :: b3 :: rest => .ok (decodeWord (b3 ++ b2 ++ b1 ++ b0), rest)
  | bs => .error (.shortWord bs.length)

/-- The word of three fields (R90). -/
def cmdWord (op fmt : BitVec 4) (rsvd : BitVec 24) : Word :=
  rsvd ++ fmt ++ op

/-- The command word of an instruction (R90, R94). -/
def encodeWord : Instr → Word
  | .derive => cmdWord 1 0 0
  | .decrypt => cmdWord 2 0 0
  | .encryptLegacy => cmdWord 3 0 0
  | .encryptFramed => cmdWord 3 1 0
  | .encryptUnsupportedFmt2 => cmdWord 3 2 0
  | .encryptUnsupportedFmt3 => cmdWord 3 3 0
  | .encryptUnsupportedFmt4 => cmdWord 3 4 0
  | .encryptUnsupportedFmt5 => cmdWord 3 5 0
  | .encryptUnsupportedFmt6 => cmdWord 3 6 0
  | .encryptUnsupportedFmt7 => cmdWord 3 7 0
  | .encryptUnsupportedFmt8 => cmdWord 3 8 0
  | .encryptUnsupportedFmt9 => cmdWord 3 9 0
  | .encryptUnsupportedFmt10 => cmdWord 3 10 0
  | .encryptUnsupportedFmt11 => cmdWord 3 11 0
  | .encryptUnsupportedFmt12 => cmdWord 3 12 0
  | .encryptUnsupportedFmt13 => cmdWord 3 13 0
  | .encryptUnsupportedFmt14 => cmdWord 3 14 0
  | .encryptUnsupportedFmt15 => cmdWord 3 15 0
  | .illegal op fmt rsvd => cmdWord op fmt rsvd

/-- The four bytes of an instruction's command word, the byte of bits 7:0 first (R65; DEDUCED, log 14). -/
def encode (i : Instr) : Bytes :=
  let w := encodeWord i
  [w.extractLsb' 0 8, w.extractLsb' 8 8, w.extractLsb' 16 8, w.extractLsb' 24 8]

/-- The low `nbits` bits of a word of the opcode table as a command word, the bits above them 0. -/
def tableWord (nbits w : Nat) : Word :=
  BitVec.ofNat 32 (w % 2 ^ nbits)

/-- What the decoder reads from the opcode table's word `w` of `nbits` bits, laid out as bytes; a command word has 32
bits (R90), and a longer row is refused. -/
def decodeTableWord (nbits w : Nat) : Option Instr :=
  if nbits ≤ 32 then
    let v := tableWord nbits w
    match decode [v.extractLsb' 0 8, v.extractLsb' 8 8, v.extractLsb' 16 8, v.extractLsb' 24 8] with
    | .ok (i, _) => some i
    | .error _ => none
  else none

end Sys2Proof
end

