-- ==== Sys2Proof/Machine/Bytes.lean ====
section
/-! DEFINITION. Byte strings and their conversions (00_scope.md R14, R15; 20_memory.md R65, R71): slices, repetition,
bytewise XOR, big-endian numbers, the lanes of a bus word and the 16 bytes of a 128-bit register. -/

namespace Sys2Proof.Machine

/-- `B[i..<j]`: bytes `i` to `j-1`, empty when `j ≤ i` (R14). -/
def slice (B : Bytes) (i j : Nat) : Bytes :=
  (B.take j).drop i

/-- `rep(v, n)`: `n` copies of byte `v` (R14). -/
def rep (v : Byte) (n : Nat) : Bytes :=
  List.replicate n v

/-- Bytewise XOR of two byte strings of equal length (R15). -/
def xorBytes (A B : Bytes) : Bytes :=
  List.zipWith (· ^^^ ·) A B

/-- `BE32(B)`, the big-endian unsigned number of a byte string (R15); 4 bytes in every use. -/
def beNat (B : Bytes) : Nat :=
  B.foldl (fun n b => n * 256 + b.toNat) 0

/-- `be32(n)`: the 4 bytes of `n`, most significant first (R15). -/
def be32 (n : Nat) : Bytes :=
  [BitVec.ofNat 8 (n / 2 ^ 24), BitVec.ofNat 8 (n / 2 ^ 16), BitVec.ofNat 8 (n / 2 ^ 8), BitVec.ofNat 8 n]

/-- Byte lane `j` of a bus word: bits `8j+7:8j` (R65). -/
def wordLane (w : Word) (j : Nat) : Byte :=
  w.extractLsb' (8 * j) 8

/-- The bus word that carries bytes `b0`, `b1`, `b2`, `b3` in lanes 0 to 3 (R65). -/
def wordOfLanes (b0 b1 b2 b3 : Byte) : Word :=
  b3 ++ b2 ++ b1 ++ b0

/-- Byte `i` of a 128-bit register: bits `8i+7:8i` (R38, R131). -/
def blockByte (b : Block) (i : Nat) : Byte :=
  b.extractLsb' (8 * i) 8

/-- The 16 bytes of a 128-bit register, byte 0 first (R24, R26). -/
def blockBytes (b : Block) : Bytes :=
  (List.range 16).map (blockByte b)

/-- The number whose base-256 digits are the bytes of `B`, byte 0 the lowest. -/
def leNat : Bytes → Nat
  | [] => 0
  | b :: bs => b.toNat + 256 * leNat bs

/-- The 128-bit register that holds the 16 bytes `B` (R24, R26, R131). -/
def blockOfBytes (B : Bytes) : Block :=
  BitVec.ofNat 128 (leNat B)

end Sys2Proof.Machine
end

