-- ==== Sys2Proof/Machine/Aes.lean ====
section
/-! DEFINITION. AES-128 (49_crypto_reference.md R200 to R211): the block cipher `AES_E(k, b)` and its inverse
`AES_D(k, b)` of 40_datapath_units.md R110. A cipher state is a byte string of 16 bytes with `s[r][c]` at index
`r + 4c` (R201). -/

namespace Sys2Proof.Machine

/-! ### Field arithmetic (R202) -/

/-- `xtime(a)`, which is `a • 0x02` (R202). -/
def xtime (a : Byte) : Byte :=
  (a <<< 1) ^^^ (if a &&& 0x80 = 0 then 0 else 0x1B)

/-- The sum of `xtime^i(a)` over the bits `i` of `b` that are 1, the lowest `n` bits of `b` taken. -/
def gfMulBits : Nat → Byte → Byte → Byte
  | 0, _, _ => 0
  | n + 1, a, b => (if b &&& 1 = 0 then 0 else a) ^^^ gfMulBits n (xtime a) (b >>> 1)

/-- `a • b`: polynomial multiplication modulo `x^8 + x^4 + x^3 + x + 1` (R202). -/
def gfMul (a b : Byte) : Byte :=
  gfMulBits 8 a b

/-! ### The S-box and its inverse (R203, R204) -/

/-- The rows of R203's table: `SBOX[16·x + y]` is entry `y` of row `x`. -/
def sboxRows : List Bytes :=
  [[0x63, 0x7c, 0x77, 0x7b, 0xf2, 0x6b, 0x6f, 0xc5, 0x30, 0x01, 0x67, 0x2b, 0xfe, 0xd7, 0xab, 0x76],
   [0xca, 0x82, 0xc9, 0x7d, 0xfa, 0x59, 0x47, 0xf0, 0xad, 0xd4, 0xa2, 0xaf, 0x9c, 0xa4, 0x72, 0xc0],
   [0xb7, 0xfd, 0x93, 0x26, 0x36, 0x3f, 0xf7, 0xcc, 0x34, 0xa5, 0xe5, 0xf1, 0x71, 0xd8, 0x31, 0x15],
   [0x04, 0xc7, 0x23, 0xc3, 0x18, 0x96, 0x05, 0x9a, 0x07, 0x12, 0x80, 0xe2, 0xeb, 0x27, 0xb2, 0x75],
   [0x09, 0x83, 0x2c, 0x1a, 0x1b, 0x6e, 0x5a, 0xa0, 0x52, 0x3b, 0xd6, 0xb3, 0x29, 0xe3, 0x2f, 0x84],
   [0x53, 0xd1, 0x00, 0xed, 0x20, 0xfc, 0xb1, 0x5b, 0x6a, 0xcb, 0xbe, 0x39, 0x4a, 0x4c, 0x58, 0xcf],
   [0xd0, 0xef, 0xaa, 0xfb, 0x43, 0x4d, 0x33, 0x85, 0x45, 0xf9, 0x02, 0x7f, 0x50, 0x3c, 0x9f, 0xa8],
   [0x51, 0xa3, 0x40, 0x8f, 0x92, 0x9d, 0x38, 0xf5, 0xbc, 0xb6, 0xda, 0x21, 0x10, 0xff, 0xf3, 0xd2],
   [0xcd, 0x0c, 0x13, 0xec, 0x5f, 0x97, 0x44, 0x17, 0xc4, 0xa7, 0x7e, 0x3d, 0x64, 0x5d, 0x19, 0x73],
   [0x60, 0x81, 0x4f, 0xdc, 0x22, 0x2a, 0x90, 0x88, 0x46, 0xee, 0xb8, 0x14, 0xde, 0x5e, 0x0b, 0xdb],
   [0xe0, 0x32, 0x3a, 0x0a, 0x49, 0x06, 0x24, 0x5c, 0xc2, 0xd3, 0xac, 0x62, 0x91, 0x95, 0xe4, 0x79],
   [0xe7, 0xc8, 0x37, 0x6d, 0x8d, 0xd5, 0x4e, 0xa9, 0x6c, 0x56, 0xf4, 0xea, 0x65, 0x7a, 0xae, 0x08],
   [0xba, 0x78, 0x25, 0x2e, 0x1c, 0xa6, 0xb4, 0xc6, 0xe8, 0xdd, 0x74, 0x1f, 0x4b, 0xbd, 0x8b, 0x8a],
   [0x70, 0x3e, 0xb5, 0x66, 0x48, 0x03, 0xf6, 0x0e, 0x61, 0x35, 0x57, 0xb9, 0x86, 0xc1, 0x1d, 0x9e],
   [0xe1, 0xf8, 0x98, 0x11, 0x69, 0xd9, 0x8e, 0x94, 0x9b, 0x1e, 0x87, 0xe9, 0xce, 0x55, 0x28, 0xdf],
   [0x8c, 0xa1, 0x89, 0x0d, 0xbf, 0xe6, 0x42, 0x68, 0x41, 0x99, 0x2d, 0x0f, 0xb0, 0x54, 0xbb, 0x16]]

/-- `SBOX[x]` (R203). -/
def sbox (x : Byte) : Byte :=
  (sboxRows.getD (x.toNat / 16) []).getD (x.toNat % 16) 0

/-- The rows of the inverse permutation of SBOX (R204): entry `y` of row `x` is the index at which R203's table holds `16·x + y`.
R204's printed table repeats R203's and is no inverse, so the rule's sentence `INV_SBOX[SBOX[x]] = x` is followed (DEDUCED,
assumption log 4); `Laws/Aes.lean` proves that sentence of these rows. -/
def invSboxRows : List Bytes :=
  [[0x52, 0x09, 0x6a, 0xd5, 0x30, 0x36, 0xa5, 0x38, 0xbf, 0x40, 0xa3, 0x9e, 0x81, 0xf3, 0xd7, 0xfb],
   [0x7c, 0xe3, 0x39, 0x82, 0x9b, 0x2f, 0xff, 0x87, 0x34, 0x8e, 0x43, 0x44, 0xc4, 0xde, 0xe9, 0xcb],
   [0x54, 0x7b, 0x94, 0x32, 0xa6, 0xc2, 0x23, 0x3d, 0xee, 0x4c, 0x95, 0x0b, 0x42, 0xfa, 0xc3, 0x4e],
   [0x08, 0x2e, 0xa1, 0x66, 0x28, 0xd9, 0x24, 0xb2, 0x76, 0x5b, 0xa2, 0x49, 0x6d, 0x8b, 0xd1, 0x25],
   [0x72, 0xf8, 0xf6, 0x64, 0x86, 0x68, 0x98, 0x16, 0xd4, 0xa4, 0x5c, 0xcc, 0x5d, 0x65, 0xb6, 0x92],
   [0x6c, 0x70, 0x48, 0x50, 0xfd, 0xed, 0xb9, 0xda, 0x5e, 0x15, 0x46, 0x57, 0xa7, 0x8d, 0x9d, 0x84],
   [0x90, 0xd8, 0xab, 0x00, 0x8c, 0xbc, 0xd3, 0x0a, 0xf7, 0xe4, 0x58, 0x05, 0xb8, 0xb3, 0x45, 0x06],
   [0xd0, 0x2c, 0x1e, 0x8f, 0xca, 0x3f, 0x0f, 0x02, 0xc1, 0xaf, 0xbd, 0x03, 0x01, 0x13, 0x8a, 0x6b],
   [0x3a, 0x91, 0x11, 0x41, 0x4f, 0x67, 0xdc, 0xea, 0x97, 0xf2, 0xcf, 0xce, 0xf0, 0xb4, 0xe6, 0x73],
   [0x96, 0xac, 0x74, 0x22, 0xe7, 0xad, 0x35, 0x85, 0xe2, 0xf9, 0x37, 0xe8, 0x1c, 0x75, 0xdf, 0x6e],
   [0x47, 0xf1, 0x1a, 0x71, 0x1d, 0x29, 0xc5, 0x89, 0x6f, 0xb7, 0x62, 0x0e, 0xaa, 0x18, 0xbe, 0x1b],
   [0xfc, 0x56, 0x3e, 0x4b, 0xc6, 0xd2, 0x79, 0x20, 0x9a, 0xdb, 0xc0, 0xfe, 0x78, 0xcd, 0x5a, 0xf4],
   [0x1f, 0xdd, 0xa8, 0x33, 0x88, 0x07, 0xc7, 0x31, 0xb1, 0x12, 0x10, 0x59, 0x27, 0x80, 0xec, 0x5f],
   [0x60, 0x51, 0x7f, 0xa9, 0x19, 0xb5, 0x4a, 0x0d, 0x2d, 0xe5, 0x7a, 0x9f, 0x93, 0xc9, 0x9c, 0xef],
   [0xa0, 0xe0, 0x3b, 0x4d, 0xae, 0x2a, 0xf5, 0xb0, 0xc8, 0xeb, 0xbb, 0x3c, 0x83, 0x53, 0x99, 0x61],
   [0x17, 0x2b, 0x04, 0x7e, 0xba, 0x77, 0xd6, 0x26, 0xe1, 0x69, 0x14, 0x63, 0x55, 0x21, 0x0c, 0x7d]]

/-- `INV_SBOX[y]` (R204). -/
def invSbox (y : Byte) : Byte :=
  (invSboxRows.getD (y.toNat / 16) []).getD (y.toNat % 16) 0

/-- SubBytes (R203). -/
def subBytes (s : Bytes) : Bytes :=
  s.map sbox

/-- InvSubBytes (R204). -/
def invSubBytes (s : Bytes) : Bytes :=
  s.map invSbox

/-! ### ShiftRows, MixColumns, AddRoundKey (R205 to R207) -/

/-- ShiftRows: `s'[r][c] = s[r][(c + r) mod 4]` (R205). -/
def shiftRows (s : Bytes) : Bytes :=
  (List.range 16).map fun i => s.getD (i % 4 + 4 * ((i / 4 + i % 4) % 4)) 0

/-- InvShiftRows: `s'[r][c] = s[r][(c - r) mod 4]` (R205). -/
def invShiftRows (s : Bytes) : Bytes :=
  (List.range 16).map fun i => s.getD (i % 4 + 4 * ((i / 4 + 4 - i % 4) % 4)) 0

/-- The product of a column with the circulant matrix whose first row is `(m0 m1 m2 m3)` (R206). -/
def mixColumn (m0 m1 m2 m3 a0 a1 a2 a3 : Byte) : Bytes :=
  [gfMul a0 m0 ^^^ gfMul a1 m1 ^^^ gfMul a2 m2 ^^^ gfMul a3 m3,
   gfMul a0 m3 ^^^ gfMul a1 m0 ^^^ gfMul a2 m1 ^^^ gfMul a3 m2,
   gfMul a0 m2 ^^^ gfMul a1 m3 ^^^ gfMul a2 m0 ^^^ gfMul a3 m1,
   gfMul a0 m1 ^^^ gfMul a1 m2 ^^^ gfMul a2 m3 ^^^ gfMul a3 m0]

/-- MixColumns: every column times the matrix with first row `(02 03 01 01)` (R206). -/
def mixColumns : Bytes → Bytes
  | a0 :: a1 :: a2 :: a3 :: s => mixColumn 0x02 0x03 0x01 0x01 a0 a1 a2 a3 ++ mixColumns s
  | _ => []

/-- InvMixColumns: every column times the matrix with first row `(0e 0b 0d 09)` (R206). -/
def invMixColumns : Bytes → Bytes
  | a0 :: a1 :: a2 :: a3 :: s => mixColumn 0x0E 0x0B 0x0D 0x09 a0 a1 a2 a3 ++ invMixColumns s
  | _ => []

/-- AddRoundKey: XOR with a 16-byte round key (R207). -/
def addRoundKey (s rk : Bytes) : Bytes :=
  xorBytes s rk

/-! ### Key expansion (R208) -/

/-- `RCON[1..10]` (R208), `RCON[i]` at index `i - 1`. -/
def rcon : Bytes :=
  [0x01, 0x02, 0x04, 0x08, 0x10, 0x20, 0x40, 0x80, 0x1B, 0x36]

/-- RotWord, SubWord and the round constant `rc` on the word `t`: the `i mod 4 = 0` step of R208. -/
def keyCore (rc : Byte) : Bytes → Bytes
  | [t0, t1, t2, t3] => [sbox t1 ^^^ rc, sbox t2, sbox t3, sbox t0]
  | t => t

/-- The word `w[i]` from the words `w[0..<i]`, for `i ≥ 4` (R208). -/
def nextKeyWord (w : List Bytes) : Bytes :=
  let i := w.length
  let t := w.getD (i - 1) []
  xorBytes (w.getD (i - 4) []) (if i % 4 = 0 then keyCore (rcon.getD (i / 4 - 1) 0) t else t)

/-- `n` more words of the key expansion. -/
def extendKeyWords : Nat → List Bytes → List Bytes
  | 0, w => w
  | n + 1, w => extendKeyWords n (w ++ [nextKeyWord w])

/-- The 44 words `w[0..43]` of the key expansion of a 16-byte key (R208). -/
def keyWords (k : Bytes) : List Bytes :=
  extendKeyWords 40 [slice k 0 4, slice k 4 8, slice k 8 12, slice k 12 16]

/-- `RK_j = w[4j] ++ w[4j+1] ++ w[4j+2] ++ w[4j+3]` (R208). -/
def roundKey (w : List Bytes) (j : Nat) : Bytes :=
  w.getD (4 * j) [] ++ w.getD (4 * j + 1) [] ++ w.getD (4 * j + 2) [] ++ w.getD (4 * j + 3) []

/-! ### Cipher and InvCipher (R210, R211) -/

/-- One of the rounds 1 to 9 of the Cipher (R210). -/
def encRound (w : List Bytes) (s : Bytes) (j : Nat) : Bytes :=
  addRoundKey (mixColumns (shiftRows (subBytes s))) (roundKey w j)

/-- One of the rounds 9 down to 1 of the InvCipher (R211). -/
def decRound (w : List Bytes) (s : Bytes) (j : Nat) : Bytes :=
  invMixColumns (addRoundKey (invSubBytes (invShiftRows s)) (roundKey w j))

/-- `AES_E(k, b)`: the Cipher (R210). -/
def aesE (k b : Bytes) : Bytes :=
  let w := keyWords k
  let s := [1, 2, 3, 4, 5, 6, 7, 8, 9].foldl (encRound w) (addRoundKey b (roundKey w 0))
  addRoundKey (shiftRows (subBytes s)) (roundKey w 10)

/-- `AES_D(k, b)`: the InvCipher (R211). -/
def aesD (k b : Bytes) : Bytes :=
  let w := keyWords k
  let s := [9, 8, 7, 6, 5, 4, 3, 2, 1].foldl (decRound w) (addRoundKey b (roundKey w 10))
  addRoundKey (invSubBytes (invShiftRows s)) (roundKey w 0)

end Sys2Proof.Machine
end

