-- ==== Sys2Proof/Machine/Modes.lean ====
section
/-! DEFINITION. The modes of the block cipher (40_datapath_units.md R112 to R116): no chaining (ECB) and chaining (CBC) over
16-byte blocks, with AES-128 as the cipher (R110). The laws of R116 follow from these definitions; Laws/Modes.lean proves each of
them. A length that is no multiple of 16 is outside the preconditions; the commands check it first (R111). -/

namespace Sys2Proof.Machine

/-- `f` on each of the first `n` 16-byte blocks of `M`, the results in a row. -/
def mapBlocks (f : Bytes → Bytes) : Nat → Bytes → Bytes
  | 0, _ => []
  | n + 1, M => f (M.take 16) ++ mapBlocks f n (M.drop 16)

/-- `ECB_E(k, M)` (R112; its laws, R116). -/
def ecbE (k M : Bytes) : Bytes :=
  mapBlocks (aesE k) (M.length / 16) M

/-- `ECB_D(k, C)` (R113; its laws, R116). -/
def ecbD (k C : Bytes) : Bytes :=
  mapBlocks (aesD k) (C.length / 16) C

/-- The loop of R114 over `n` blocks, from the previous block `prev`. -/
def cbcEBlocks (k : Bytes) : Nat → Bytes → Bytes → Bytes
  | 0, _, _ => []
  | n + 1, prev, M =>
    let c := aesE k (xorBytes (M.take 16) prev)
    c ++ cbcEBlocks k n c (M.drop 16)

/-- `CBC_E(k, iv, M)` (R114; its laws, R116). -/
def cbcE (k iv M : Bytes) : Bytes :=
  cbcEBlocks k (M.length / 16) iv M

/-- The loop of R115 over `n` blocks, from the previous block `prev`. -/
def cbcDBlocks (k : Bytes) : Nat → Bytes → Bytes → Bytes
  | 0, _, _ => []
  | n + 1, prev, C => xorBytes (aesD k (C.take 16)) prev ++ cbcDBlocks k n (C.take 16) (C.drop 16)

/-- `CBC_D(k, iv, C)` (R115; its laws, R116). -/
def cbcD (k iv C : Bytes) : Bytes :=
  cbcDBlocks k (C.length / 16) iv C

end Sys2Proof.Machine
end

