-- ==== Sys2Proof/Config.lean ====
section
/-! DEFINITION. What an implementation of JU-CORE fixes (00_scope.md R11, R12), and the free values: bytes the spec leaves
unspecified, opaque constants of which nothing can be proved. -/

namespace Sys2Proof

/-- The reference value of BUF_BYTES (R12), which `State.reset` takes (DESIGN CHOICE, log 8). -/
def Config.refBufBytes : Nat := 4096

/-- The values BUF_BYTES may have: a multiple of 16 with 64 ≤ BUF_BYTES ≤ 65536 (R12). -/
def Config.validBufBytes (n : Nat) : Bool :=
  n % 16 == 0 && 64 ≤ n && n ≤ 65536

/-- The constant of the ID register (R29). -/
def Config.idWord : Word := 0x4A550001

/-- The unspecified value that byte `index` of IN_BUF holds after reset number `epoch`, until the host writes it
(R33, R44; DESIGN CHOICE of the form, log 6): a free value. -/
opaque Config.unwrittenInByte (epoch index : Nat) : Byte

/-- The unspecified value of the `n`-th undefined OUT_BUF byte read (R33, R68; DESIGN CHOICE of the form, log 7): a free
value. -/
opaque Config.unspecifiedOutByte (n : Nat) : Byte

end Sys2Proof
end

