-- ==== Sys2Proof/Machine/State.lean ====
section
/-! DEFINITION. The state of JU-CORE (10_state.md R20 to R44) as plain data, the outside world's moves that it waits for,
the reasons a step can stop, and the state after reset (R40, 70_reset_and_hazards.md R271). -/

namespace Sys2Proof.Machine

/-- The sequencer SEQ (10_state.md R21). BUSY carries the command class that acceptance handed to the engine
(42_format_dispatch.md R151). -/
inductive Seq where
  | idle
  | busy (c : Instr)
deriving DecidableEq, Repr

/-- KSTATE (R23); its value 3 is never taken, so it has no constructor. -/
inductive KState where
  | unkeyed
  | keyed
  | failed
deriving DecidableEq, Repr

/-- The error codes of 60_exceptions.md R242; codes 9 to 15 are never written, so they have no constructor. -/
inductive ErrCode where
  | ok
  | kdf
  | integrity
  | malformed
  | decoding
  | unsupported
  | notKeyed
  | length
  | illegal
deriving DecidableEq, Repr

/-- The two payload formats (30_encoding.md R92, 42_format_dispatch.md R155). -/
inductive Format where
  | legacy
  | framed
deriving DecidableEq, Repr

/-- A bus response (20_memory.md R61). -/
inductive Resp where
  | okay
  | error
deriving DecidableEq, Repr

/-- What the last bus transaction answered (R61): a read its data and response, a write its response. -/
inductive BusResult where
  | none
  | read (data : Word) (resp : Resp)
  | write (resp : Resp)
deriving DecidableEq, Repr

/-- A bus transaction of the host (R61). -/
inductive BusTx where
  | read (addr : Addr)
  | write (addr : Addr) (data : Word)
deriving DecidableEq, Repr

/-- A move of the outside world, or a turn given to the engine (R61, R77; DESIGN CHOICE of the form, log 2). -/
inductive Input where
  /-- The host performs a transaction, between engine steps (R74). -/
  | bus (t : BusTx)
  /-- The engine takes a step. -/
  | engine
  /-- The engine takes a step and a transaction arrives in the same cycle (60_exceptions.md R253). -/
  | engineAnd (t : BusTx)
  /-- The random source drives its lines trng_valid and trng_data (40_datapath_units.md R130). -/
  | trng (valid : Bool) (data : Block)
  /-- The reset line rst_n is driven to a level (70_reset_and_hazards.md R270). -/
  | rst (level : Bool)
deriving DecidableEq, Repr

/-- A byte memory: (index, byte) pairs, the indices strictly rising; an unlisted index has no value. -/
abbrev Memory := List Host.Cell

/-- The state of JU-CORE. -/
structure State where
  /-- The parameter BUF_BYTES, which BUFSIZE reads (R12, R37). No step changes it. -/
  bufBytes : Nat
  /-- SEQ (R21). -/
  seq : Seq
  /-- KSTATE (R23). -/
  kstate : KState
  /-- CIPHER_KEY (R24). -/
  cipherKey : Block
  /-- TEMP_KEY (R25), hidden. -/
  tempKey : Block
  /-- IV_REG (R26). -/
  ivReg : Block
  /-- CTRL.IE (R30); the other bits of CTRL are RES0. -/
  ie : Bool
  /-- STATUS.DONE (R32). -/
  done : Bool
  /-- STATUS.ERR (R32, R242). -/
  err : ErrCode
  /-- STATUS.FMT_USED (R32, R160). -/
  fmtUsed : Format
  /-- IN_LEN0 (R34). -/
  inLen0 : Word
  /-- IN_LEN1 (R35). -/
  inLen1 : Word
  /-- OUT_LEN (R36). -/
  outLen : Word
  /-- IN_BUF: the bytes the host has written since reset (R33, R44). -/
  inBuf : Memory
  /-- OUT_BUF: the bytes commands have written; which of them are defined, `State.outByte` says (R33). -/
  outBuf : Memory
  /-- The output trng_req (R60, R130). -/
  trngReq : Bool
  /-- The input trng_valid (R60). -/
  trngValid : Bool
  /-- The input trng_data (R60). -/
  trngData : Block
  /-- The input rst_n (R60, R270): false while reset is asserted. -/
  rstN : Bool
  /-- What the last bus transaction answered: prdata and pslverr (R60, R61; log 15). -/
  busResult : BusResult
  /-- The model's own: the outside world's moves to come (log 2). -/
  inputs : List Input
  /-- The model's own: the number of resets asserted, which names the free IN_BUF bytes (log 6). -/
  resetEpoch : Nat
  /-- The model's own: the number of free OUT_BUF bytes read (log 7). -/
  outDraws : Nat
deriving DecidableEq, Repr

/-- Why a step of the machine can fault. -/
inductive Fault where
  /-- Raised by a turn of the engine with SEQ = BUSY and the class ILLEGAL, which no word is ever accepted with (R150,
  R154): a stuck state the spec excludes. Safe: no run of the hardware reaches it (log 13). -/
  | illegalClassBusy
deriving DecidableEq, Repr

/-- Why a step of the machine can be refused. -/
inductive Refusal where
  /-- Raised by an arm of `exec` whose instruction has no meaning yet; there is none. Safe: the model stops. -/
  | notModelled (mnemonic : String)
  /-- Raised by a bus transaction while rst_n = 0, which the fabric must not issue and for which a model has no
  transition (R270, U13). Safe: the model stops (log 10). -/
  | busDuringReset
deriving DecidableEq, Repr

/-- The outcome of a step or of an instruction. -/
abbrev Out := Host.Outcome State Fault Refusal

/-- The state after reset (R40, R271), rst_n released, with the reference BUF_BYTES (log 8), no move of the outside world
pending (log 2) and the TRNG lines low (log 9). -/
def State.reset : State where
  bufBytes := Config.refBufBytes
  seq := .idle
  kstate := .unkeyed
  cipherKey := 0
  tempKey := 0
  ivReg := 0
  ie := false
  done := false
  err := .ok
  fmtUsed := .legacy
  inLen0 := 0
  inLen1 := 0
  outLen := 0
  inBuf := []
  outBuf := []
  trngReq := false
  trngValid := false
  trngData := 0
  rstN := true
  busResult := .none
  inputs := []
  resetEpoch := 0
  outDraws := 0

end Sys2Proof.Machine
end

