-- ==== Sys2Proof/Machine/Ops.lean ====
section
/-! DEFINITION. The named operations over memory and registers: one byte of a memory, the engine's MemWrite (20_memory.md
R73), acceptance (42_format_dispatch.md R151), the successful completion `finish` (R152), the error completion `raise`
(60_exceptions.md R240), which is how this machine takes an exception, and ILLEGAL_COMPLETE (42_format_dispatch.md R154).
There is no return from an exception: the next CMD write starts the next command (60_exceptions.md R257). -/

namespace Sys2Proof.Machine

/-! ### Byte memories -/

/-- The byte at an index, if one is listed. -/
def Memory.read : Memory → Nat → Option Byte
  | [], _ => none
  | (k, v) :: m, a => if k = a then some v else Memory.read m a

/-- The memory with one byte stored, the indices kept strictly rising. -/
def Memory.write : Memory → Nat → Byte → Memory
  | [], a, b => [(a, b)]
  | (k, v) :: m, a, b =>
    if a < k then (a, b) :: (k, v) :: m
    else if a = k then (a, b) :: m
    else (k, v) :: Memory.write m a b

/-- The memory with the bytes `B` stored from index `a` on: `MemWrite(·, a, len(B), B)` of R16. -/
def Memory.writeBytes : Memory → Nat → Bytes → Memory
  | m, _, [] => m
  | m, a, b :: B => Memory.writeBytes (Memory.write m a b) (a + 1) B

/-- The canonical form: indices strictly rising. -/
def Memory.wf (m : Memory) : Bool :=
  decide (m.Pairwise fun x y => x.1 < y.1)

/-- Every listed index lies below `n`. -/
def Memory.below (n : Nat) (m : Memory) : Bool :=
  m.all fun c => c.1 < n

/-! ### Acceptance and completion -/

/-- `ACCEPT(c)`: SEQ becomes BUSY with class `c`, DONE, ERR and OUT_LEN are cleared (R151). -/
def State.accepted (c : Instr) (s : State) : State :=
  { s with seq := .busy c, done := false, err := .ok, outLen := 0 }

/-- `finish(B)`: the output in OUT_BUF, its length in OUT_LEN, ERR = 0, then IDLE and DONE (R152). A TRNG request ends
with the command (R43, log 19). -/
def State.finished (B : Bytes) (s : State) : State :=
  { s with outBuf := s.outBuf.writeBytes 0 B, outLen := BitVec.ofNat 32 B.length, err := .ok, seq := .idle,
           done := true, trngReq := false }

/-- `raise e`: OUT_LEN = 0, ERR = `e`, the register writes already made kept, then IDLE and DONE (60_exceptions.md R240).
A TRNG request ends with the command (R43, log 19). -/
def State.raised (e : ErrCode) (s : State) : State :=
  { s with outLen := 0, err := e, seq := .idle, done := true, trngReq := false }

/-- `ILLEGAL_COMPLETE`: ERR = 8, OUT_LEN = 0, DONE; SEQ as it was (R154). -/
def State.illegalCompleted (s : State) : State :=
  { s with err := .illegal, outLen := 0, done := true }

/-- `finish(B)` as the outcome of a command (R152). -/
def State.finish (B : Bytes) (s : State) : Out :=
  .next (s.finished B)

/-- `raise e` as the outcome of a command: taking this machine's exception (60_exceptions.md R240). -/
def State.raise (e : ErrCode) (s : State) : Out :=
  .next (s.raised e)

/-- A command that ends with a codec's verdict: `finish` on its output, `raise` on its error (R163). -/
def State.complete (r : Except ErrCode Bytes) (s : State) : Out :=
  match r with
  | .ok B => s.finish B
  | .error e => s.raise e

/-! ### Registers that commands write -/

/-- TEMP_KEY written (R140). -/
def State.withTempKey (k : Block) (s : State) : State :=
  { s with tempKey := k }

/-- IV_REG written (R182, R186). -/
def State.withIv (iv : Block) (s : State) : State :=
  { s with ivReg := iv }

/-- STATUS.FMT_USED written (R160). -/
def State.withFmtUsed (f : Format) (s : State) : State :=
  { s with fmtUsed := f }

/-- CIPHER_KEY and KSTATE after a derivation (R143, R144). -/
def State.withKey (k : Block) (ks : KState) (s : State) : State :=
  { s with cipherKey := k, kstate := ks }

/-- The output trng_req driven (R130). -/
def State.withTrngReq (r : Bool) (s : State) : State :=
  { s with trngReq := r }

end Sys2Proof.Machine
end

