-- ==== Sys2Proof/Machine/Operands.lean ====
section
/-! DEFINITION. The operands of the commands: bytes of IN_BUF (20_memory.md R73, 10_state.md R44), lengths as exact
integers (40_datapath_units.md R128), the key registers as byte strings, the random draw (R131), and the bytes of OUT_BUF
that are defined (10_state.md R33). -/

namespace Sys2Proof.Machine

/-- Byte `i` of IN_BUF: what the host wrote, else the unspecified value it holds since reset (R33, R44; log 6). -/
def State.inByte (s : State) (i : Nat) : Byte :=
  (s.inBuf.read i).getD (Config.unwrittenInByte s.resetEpoch i)

/-- `MemRead(IN, a, n) = IN_BUF[a..<a+n]` (R16, R73). -/
def State.memReadIn (s : State) (a n : Nat) : Bytes :=
  (List.range n).map fun i => s.inByte (a + i)

/-- IN_LEN0 as an exact integer (R128). -/
def State.len0 (s : State) : Nat := s.inLen0.toNat

/-- IN_LEN1 as an exact integer (R128). -/
def State.len1 (s : State) : Nat := s.inLen1.toNat

/-- CIPHER_KEY as 16 bytes (R24). -/
def State.key (s : State) : Bytes := blockBytes s.cipherKey

/-- `draw16()`: the 16 bytes on trng_data, byte `i` in bits `8i+7:8i` (R131). -/
def State.draw16 (s : State) : Bytes := blockBytes s.trngData

/-- `OUTLEN(fmt, n)`, the length of an ENCRYPT's output (R158). -/
def outLenOf (fmt : Format) (n : Nat) : Nat :=
  match fmt with
  | .legacy => 16 * ((n + 13) / 16) + 16
  | .framed => 25 + 16 * (n / 16) + 16

/-- Byte `i` of OUT_BUF where it is defined: SEQ = IDLE and `i < OUT_LEN` (R33, R68); else it is unspecified. -/
def State.outByte (s : State) (i : Nat) : Option Byte :=
  if s.seq = .idle ∧ i < s.outLen.toNat then s.outBuf.read i else none

end Sys2Proof.Machine
end

