-- ==== Sys2Proof/Machine/Sha256.lean ====
section
/-! DEFINITION. SHA-256 (49_crypto_reference.md R220 to R227): the hash `H256(M)` of 40_datapath_units.md R117. Words are
32 bits wide, read big-endian from bytes, and added modulo 2^32 (R220). -/

namespace Sys2Proof.Machine

/-- The word at 4 bytes, big-endian (R220). -/
def beWord (B : Bytes) : Word :=
  BitVec.ofNat 32 (beNat B)

/-- `be64(n)`: the 8 bytes of `n`, most significant first (R221). -/
def be64 (n : Nat) : Bytes :=
  be32 (n / 2 ^ 32) ++ be32 (n % 2 ^ 32)

/-- The least `z` with `(len + 1 + z + 8) mod 64 = 0` (R221). -/
def shaZeros (len : Nat) : Nat :=
  (64 - (len + 9) % 64) % 64

/-- The padded message `M ++ 0x80 ++ rep(0x00, z) ++ be64(8·len(M))` (R221). -/
def shaPad (M : Bytes) : Bytes :=
  M ++ [0x80] ++ rep 0x00 (shaZeros M.length) ++ be64 (8 * M.length)

/-! ### Functions on words (R222) -/

/-- `Ch(x, y, z)` (R222). -/
def shaCh (x y z : Word) : Word := (x &&& y) ^^^ (~~~x &&& z)

/-- `Maj(x, y, z)` (R222). -/
def shaMaj (x y z : Word) : Word := (x &&& y) ^^^ (x &&& z) ^^^ (y &&& z)

/-- `Σ0(x)` (R222). -/
def shaBigSigma0 (x : Word) : Word := x.rotateRight 2 ^^^ x.rotateRight 13 ^^^ x.rotateRight 22

/-- `Σ1(x)` (R222). -/
def shaBigSigma1 (x : Word) : Word := x.rotateRight 6 ^^^ x.rotateRight 11 ^^^ x.rotateRight 25

/-- `σ0(x)` (R222). -/
def shaSmallSigma0 (x : Word) : Word := x.rotateRight 7 ^^^ x.rotateRight 18 ^^^ (x >>> 3)

/-- `σ1(x)` (R222). -/
def shaSmallSigma1 (x : Word) : Word := x.rotateRight 17 ^^^ x.rotateRight 19 ^^^ (x >>> 10)

/-! ### Constants (R223, R224) -/

/-- The round constants `K[0..63]` (R223). -/
def shaK : List Word :=
  [0x428a2f98, 0x71374491, 0xb5c0fbcf, 0xe9b5dba5, 0x3956c25b, 0x59f111f1, 0x923f82a4, 0xab1c5ed5]
  ++ [0xd807aa98, 0x12835b01, 0x243185be, 0x550c7dc3, 0x72be5d74, 0x80deb1fe, 0x9bdc06a7, 0xc19bf174]
  ++ [0xe49b69c1, 0xefbe4786, 0x0fc19dc6, 0x240ca1cc, 0x2de92c6f, 0x4a7484aa, 0x5cb0a9dc, 0x76f988da]
  ++ [0x983e5152, 0xa831c66d, 0xb00327c8, 0xbf597fc7, 0xc6e00bf3, 0xd5a79147, 0x06ca6351, 0x14292967]
  ++ [0x27b70a85, 0x2e1b2138, 0x4d2c6dfc, 0x53380d13, 0x650a7354, 0x766a0abb, 0x81c2c92e, 0x92722c85]
  ++ [0xa2bfe8a1, 0xa81a664b, 0xc24b8b70, 0xc76c51a3, 0xd192e819, 0xd6990624, 0xf40e3585, 0x106aa070]
  ++ [0x19a4c116, 0x1e376c08, 0x2748774c, 0x34b0bcb5, 0x391c0cb3, 0x4ed8aa4a, 0x5b9cca4f, 0x682e6ff3]
  ++ [0x748f82ee, 0x78a5636f, 0x84c87814, 0x8cc70208, 0x90befffa, 0xa4506ceb, 0xbef9a3f7, 0xc67178f2]

/-- The initial hash value `H(0)[0..7]` (R224). -/
def shaH0 : List Word :=
  [0x6a09e667, 0xbb67ae85, 0x3c6ef372, 0xa54ff53a, 0x510e527f, 0x9b05688c, 0x1f83d9ab, 0x5be0cd19]

/-! ### Schedule and compression (R225, R226) -/

/-- `W[t]` from the words before it, for `t ≥ 16` (R225). -/
def nextScheduleWord (W : List Word) : Word :=
  let t := W.length
  shaSmallSigma1 (W.getD (t - 2) 0) + W.getD (t - 7) 0 + shaSmallSigma0 (W.getD (t - 15) 0) + W.getD (t - 16) 0

/-- `n` more words of the message schedule. -/
def extendSchedule : Nat → List Word → List Word
  | 0, W => W
  | n + 1, W => extendSchedule n (W ++ [nextScheduleWord W])

/-- The message words `M_0 .. M_15` of a 64-byte block (R225). -/
def blockWords (B : Bytes) : List Word :=
  (List.range 16).map fun t => beWord (slice B (4 * t) (4 * t + 4))

/-- The message schedule `W[0..63]` of a 64-byte block (R225). -/
def shaSchedule (B : Bytes) : List Word :=
  extendSchedule 48 (blockWords B)

/-- The working variables `(a, b, c, d, e, f, g, h)` (R226). -/
structure ShaVars where
  a : Word
  b : Word
  c : Word
  d : Word
  e : Word
  f : Word
  g : Word
  h : Word
deriving DecidableEq, Repr

/-- One round `t` of the compression, with `K[t]` and `W[t]` given (R226). -/
def shaRound (v : ShaVars) (kw : Word × Word) : ShaVars :=
  let t1 := v.h + shaBigSigma1 v.e + shaCh v.e v.f v.g + kw.1 + kw.2
  let t2 := shaBigSigma0 v.a + shaMaj v.a v.b v.c
  { a := t1 + t2, b := v.a, c := v.b, d := v.c, e := v.d + t1, f := v.e, g := v.f, h := v.g }

/-- The working variables as the list of words 0 to 7. -/
def shaVarsList (v : ShaVars) : List Word :=
  [v.a, v.b, v.c, v.d, v.e, v.f, v.g, v.h]

/-- The working variables set to a hash value (R226). -/
def shaVarsOf (H : List Word) : ShaVars :=
  { a := H.getD 0 0, b := H.getD 1 0, c := H.getD 2 0, d := H.getD 3 0,
    e := H.getD 4 0, f := H.getD 5 0, g := H.getD 6 0, h := H.getD 7 0 }

/-- `H(i)` from `H(i-1)` and the 64-byte block `B` (R226). -/
def shaCompress (H : List Word) (B : Bytes) : List Word :=
  List.zipWith (· + ·) H (shaVarsList ((shaK.zip (shaSchedule B)).foldl shaRound (shaVarsOf H)))

/-- The hash value after the first `n` blocks of the padded message `P`, from `H`. -/
def shaBlocks : Nat → List Word → Bytes → List Word
  | 0, H, _ => H
  | n + 1, H, P => shaBlocks n (shaCompress H (P.take 64)) (P.drop 64)

/-- `H256(M)`: the 32-byte digest (R227). -/
def sha256 (M : Bytes) : Bytes :=
  (shaBlocks ((shaPad M).length / 64) shaH0 (shaPad M)).flatMap fun w => be32 w.toNat

end Sys2Proof.Machine
end

