-- ==== Sys2Proof/Machine/Units.lean ====
section
/-! DEFINITION. The datapath units the commands share (40_datapath_units.md): the temporary key (R118), the padding unit
(R119; 44_framed_codec.md R183), the marker unit (R121, R122), the UTF-8 validator (R124) and the framing multiplexer
(R126, R127; 30_encoding.md R97). -/

namespace Sys2Proof.Machine

/-! ### Temporary key -/

/-- `TK(mk) = H256(mk)[0..<16]` (R118). -/
def tempKeyOf (mk : Bytes) : Bytes :=
  slice (sha256 mk) 0 16

/-! ### Padding -/

/-- The pad count `16 - (len mod 16)` (R119). -/
def padCount (len : Nat) : Nat :=
  16 - len % 16

/-- `PAD(M) = M ++ rep(n, n)` (R119). -/
def pad (M : Bytes) : Bytes :=
  M ++ rep (BitVec.ofNat 8 (padCount M.length)) (padCount M.length)

/-- The bytes left when the padding count in the last byte is stripped, or none when the count is 0 or exceeds the
length (44_framed_codec.md R183); the padding bytes themselves are not checked. An empty `D` has no count. -/
def unpad (D : Bytes) : Option Bytes :=
  match D.getLast? with
  | none => none
  | some p => if p = 0 ∨ p.toNat > D.length then none else some (slice D 0 (D.length - p.toNat))

/-! ### Marker -/

/-- MARKER, the 13 ASCII bytes `::::MAGIC::::` (R11). -/
def marker : Bytes :=
  [0x3A, 0x3A, 0x3A, 0x3A, 0x4D, 0x41, 0x47, 0x49, 0x43, 0x3A, 0x3A, 0x3A, 0x3A]

/-- `MARKER_AT16(D)` (R121). -/
def markerAt16 (D : Bytes) : Bool :=
  29 ≤ D.length && slice D 16 29 == marker

/-- `FIND_MARKER(D)`: the least index at which MARKER stands, if any (R122). -/
def findMarker : Bytes → Option Nat
  | [] => none
  | b :: D => if marker.isPrefixOf (b :: D) then some 0 else (findMarker D).map (· + 1)

/-! ### UTF-8 -/

/-- An inclusive range of byte values. -/
abbrev ByteRange := Byte × Byte

/-- The rows of R124's table: the range of byte 1, and the ranges of the bytes that follow it. -/
def utf8Rows : List (ByteRange × List ByteRange) :=
  [((0x00, 0x7F), []),
   ((0xC2, 0xDF), [(0x80, 0xBF)]),
   ((0xE0, 0xE0), [(0xA0, 0xBF), (0x80, 0xBF)]),
   ((0xE1, 0xEC), [(0x80, 0xBF), (0x80, 0xBF)]),
   ((0xED, 0xED), [(0x80, 0x9F), (0x80, 0xBF)]),
   ((0xEE, 0xEF), [(0x80, 0xBF), (0x80, 0xBF)]),
   ((0xF0, 0xF0), [(0x90, 0xBF), (0x80, 0xBF), (0x80, 0xBF)]),
   ((0xF1, 0xF3), [(0x80, 0xBF), (0x80, 0xBF), (0x80, 0xBF)]),
   ((0xF4, 0xF4), [(0x80, 0x8F), (0x80, 0xBF), (0x80, 0xBF)])]

/-- Whether a byte lies in a range. -/
def inByteRange (r : ByteRange) (b : Byte) : Bool :=
  r.1.toNat ≤ b.toNat && b.toNat ≤ r.2.toNat

/-- The ranges of the bytes that must follow byte 1, if some row of R124 has that byte 1. -/
def utf8Follow (b : Byte) : Option (List ByteRange) :=
  (utf8Rows.find? fun row => inByteRange row.1 b).map (·.2)

/-- Whether the bytes `B` complete a sequence of which bytes in the ranges `rs` are still to come, and go on well formed. -/
def utf8From : List ByteRange → Bytes → Bool
  | [], [] => true
  | _ :: _, [] => false
  | [], b :: B => match utf8Follow b with
    | none => false
    | some rs => utf8From rs B
  | r :: rs, b :: B => inByteRange r b && utf8From rs B

/-- `UTF8_OK(B)` (R124). -/
def utf8OK (B : Bytes) : Bool :=
  utf8From [] B

/-! ### Frames -/

/-- `FRAME(iv, body)` (R126). -/
def frame (iv body : Bytes) : Bytes :=
  0x01 :: (be32 iv.length ++ be32 body.length ++ iv ++ body)

/-- `IVLEN(C) = BE32(C[1..<5])` (R127). -/
def frameIvLen (C : Bytes) : Nat := beNat (slice C 1 5)

/-- `DLEN(C) = BE32(C[5..<9])` (R127). -/
def frameDataLen (C : Bytes) : Nat := beNat (slice C 5 9)

/-- The IV and the body of a payload that passes the four frame checks, in R181's order: the header is whole, the lengths
add up on exact integers, the IV has 16 bytes, the body is made of whole blocks. -/
def parseFrame (C : Bytes) : Option (Bytes × Bytes) :=
  if C.length < 9 then none
  else if 9 + frameIvLen C + frameDataLen C ≠ C.length then none
  else if frameIvLen C ≠ 16 then none
  else if frameDataLen C % 16 ≠ 0 then none
  else some (slice C 9 25, slice C 25 (25 + frameDataLen C))

/-- `DETECT(C)`: FRAMED when the first byte is 1 (42_format_dispatch.md R155). -/
def detect : Bytes → Format
  | b :: _ => if b = 0x01 then .framed else .legacy
  | [] => .legacy

end Sys2Proof.Machine
end

