-- ==== Sys2Proof/Machine/Decrypt.lean ====
section
/-! DEFINITION. DECRYPT (42_format_dispatch.md R157) with its two arms, LEGACY_DECODE (43_legacy_codec.md R170) and
FRAMED_DECODE (44_framed_codec.md R180). -/

namespace Sys2Proof.Machine

/-- The verdict on a plaintext: itself when it is UTF-8, else E_DECODING (R170, R180). -/
def textVerdict (pt : Bytes) : Except ErrCode Bytes :=
  if utf8OK pt then .ok pt else .error .decoding

/-- LEGACY_DECODE as a function of the key and the ciphertext, its checks in the order of R171. -/
def legacyVerdict (k C : Bytes) : Except ErrCode Bytes :=
  if C.length % 16 ≠ 0 then .error .length
  else
    let D := ecbD k C
    match findMarker D with
    | none => .error .integrity
    | some i => textVerdict (slice D 0 i)

/-- FRAMED_DECODE after its frame checks, as a function of the key, the IV and the body: checks 5 to 7 of R181. An empty
body decrypts to the empty string, which has no padding count (check 5). -/
def framedVerdict (k iv body : Bytes) : Except ErrCode Bytes :=
  match unpad (cbcD k iv body) with
  | none => .error .decoding
  | some pt => textVerdict pt

/-- LEGACY_DECODE (R170). -/
def legacyDecode (C : Bytes) (s : State) : Out :=
  s.complete (legacyVerdict s.key C)

/-- FRAMED_DECODE (R180): IV_REG takes the parsed IV once the frame checks pass (R182). -/
def framedDecode (C : Bytes) (s : State) : Out :=
  match parseFrame C with
  | none => s.raise .malformed
  | some (iv, body) => (s.withIv (blockOfBytes iv)).complete (framedVerdict s.key iv body)

/-- DECRYPT's dispatch on the detected format, which FMT_USED records (R157, R160). -/
def decryptPayload (C : Bytes) (s : State) : Out :=
  match detect C with
  | .legacy => legacyDecode C (s.withFmtUsed .legacy)
  | .framed => framedDecode C (s.withFmtUsed .framed)

/-- DECRYPT (R157). -/
def execDecrypt (s : State) : Out :=
  if s.kstate ≠ .keyed then s.raise .notKeyed
  else if s.len0 > s.bufBytes then s.raise .length
  else decryptPayload (s.memReadIn 0 s.len0) s

end Sys2Proof.Machine
end

