-- ==== Sys2Proof/Machine/Derive.lean ====
section
/-! DEFINITION. DERIVE (41_key_derivation.md R140 to R148). -/

namespace Sys2Proof.Machine

/-- `KFAIL_AND(e)`: TEMP_KEY and CIPHER_KEY become zero, KSTATE FAILED, then `raise e` (R140, R144). -/
def State.derivationFailed (e : ErrCode) (s : State) : State :=
  ((s.withTempKey 0).withKey 0 .failed).raised e

/-- The success of a derivation with key `k`: CIPHER_KEY loaded, KSTATE KEYED, `finish("")` (R140, R143). -/
def State.keyLoaded (k : Block) (s : State) : State :=
  (s.withKey k .keyed).finished []

/-- DERIVE's pseudocode after its length checks: hash, decrypt, test the marker (R140). TEMP_KEY holds the temporary key
only inside this step (R145, log 17). -/
def deriveFrom (mk hsk : Bytes) (s : State) : State :=
  let s1 := s.withTempKey (blockOfBytes (tempKeyOf mk))
  let D := ecbD (blockBytes s1.tempKey) hsk
  let s2 := s1.withTempKey 0
  if markerAt16 D then s2.keyLoaded (blockOfBytes (slice D 0 16)) else s2.derivationFailed .kdf

/-- DERIVE (R140), its checks in the order of R142. -/
def execDerive (s : State) : Out :=
  if s.len0 + s.len1 > s.bufBytes then .next (s.derivationFailed .length)
  else if s.len1 < 32 ∨ s.len1 % 16 ≠ 0 then .next (s.derivationFailed .kdf)
  else .next (deriveFrom (s.memReadIn 0 s.len0) (s.memReadIn s.len0 s.len1) s)

end Sys2Proof.Machine
end

