-- ==== Sys2Proof/Machine/Encrypt.lean ====
section
/-! DEFINITION. ENCRYPT (42_format_dispatch.md R158): ENCRYPT.LEGACY (43_legacy_codec.md R172), ENCRYPT.FRAMED
(44_framed_codec.md R185) with the TRNG handshake (40_datapath_units.md R130), and ENCRYPT.UNSUPPORTED
(42_format_dispatch.md R159). -/

namespace Sys2Proof.Machine

/-- The checks of an ENCRYPT that come after its key check, on the plaintext `M` of `n` bytes: input length, UTF-8, output
length (R158). -/
def plaintextVerdict (fmt : Format) (bufBytes n : Nat) (M : Bytes) : Except ErrCode Bytes :=
  if n > bufBytes then .error .length
  else if ¬utf8OK M then .error .decoding
  else if outLenOf fmt n > bufBytes then .error .length
  else .ok M

/-- ENCRYPT(fmt) for fmt 0 and 1 (R158): the key check, the checks of the plaintext, then `encode` on the plaintext. An
error after the key check commits FMT_USED = fmt (R160; log 20). -/
def encryptWith (fmt : Format) (encode : Bytes → Out) (s : State) : Out :=
  if s.kstate ≠ .keyed then s.raise .notKeyed
  else
    match plaintextVerdict fmt s.bufBytes s.len0 (s.memReadIn 0 s.len0) with
    | .error e => (s.withFmtUsed fmt).raise e
    | .ok M => encode M

/-- `LEGACY_ENCODE`'s output: `ECB_E(k, PAD(M ++ MARKER))` (R172). -/
def legacyPayload (k M : Bytes) : Bytes :=
  ecbE k (pad (M ++ marker))

/-- LEGACY_ENCODE, with FMT_USED = 0 committed (R172, R160). -/
def legacyEncode (s : State) (M : Bytes) : Out :=
  (s.withFmtUsed .legacy).finish (legacyPayload s.key M)

/-- `FRAMED_ENCODE`'s output: `FRAME(iv, CBC_E(k, iv, PAD(M)))` (R185). -/
def framedPayload (k iv M : Bytes) : Bytes :=
  frame iv (cbcE k iv (pad M))

/-- FRAMED_ENCODE (R185): the engine raises trng_req and holds it, the command still running, until trng_valid = 1; then it
takes the draw into IV_REG (R186), lowers trng_req (R130) and finishes, with FMT_USED = 1 committed (R160). -/
def framedEncode (s : State) (M : Bytes) : Out :=
  if ¬s.trngReq then .next (s.withTrngReq true)
  else if ¬s.trngValid then .next s
  else
    ((((s.withTrngReq false).withFmtUsed .framed).withIv s.trngData)).finish (framedPayload s.key s.draw16 M)

/-- ENCRYPT.LEGACY (R158, R172). -/
def execEncryptLegacy (s : State) : Out :=
  encryptWith .legacy (legacyEncode s) s

/-- ENCRYPT.FRAMED (R158, R185). -/
def execEncryptFramed (s : State) : Out :=
  encryptWith .framed (framedEncode s) s

/-- ENCRYPT(fmt) for fmt 2 to 15: the key check, then E_UNSUPPORTED; no operand is read (R159). -/
def encryptUnsupported (s : State) : Out :=
  if s.kstate ≠ .keyed then s.raise .notKeyed else s.raise .unsupported

/-- ENCRYPT.UNSUPPORTED fmt=2 (R159). -/
def execEncryptUnsupportedFmt2 (s : State) : Out := encryptUnsupported s

/-- ENCRYPT.UNSUPPORTED fmt=3 (R159). -/
def execEncryptUnsupportedFmt3 (s : State) : Out := encryptUnsupported s

/-- ENCRYPT.UNSUPPORTED fmt=4 (R159). -/
def execEncryptUnsupportedFmt4 (s : State) : Out := encryptUnsupported s

/-- ENCRYPT.UNSUPPORTED fmt=5 (R159). -/
def execEncryptUnsupportedFmt5 (s : State) : Out := encryptUnsupported s

/-- ENCRYPT.UNSUPPORTED fmt=6 (R159). -/
def execEncryptUnsupportedFmt6 (s : State) : Out := encryptUnsupported s

/-- ENCRYPT.UNSUPPORTED fmt=7 (R159). -/
def execEncryptUnsupportedFmt7 (s : State) : Out := encryptUnsupported s

/-- ENCRYPT.UNSUPPORTED fmt=8 (R159). -/
def execEncryptUnsupportedFmt8 (s : State) : Out := encryptUnsupported s

/-- ENCRYPT.UNSUPPORTED fmt=9 (R159). -/
def execEncryptUnsupportedFmt9 (s : State) : Out := encryptUnsupported s

/-- ENCRYPT.UNSUPPORTED fmt=10 (R159). -/
def execEncryptUnsupportedFmt10 (s : State) : Out := encryptUnsupported s

/-- ENCRYPT.UNSUPPORTED fmt=11 (R159). -/
def execEncryptUnsupportedFmt11 (s : State) : Out := encryptUnsupported s

/-- ENCRYPT.UNSUPPORTED fmt=12 (R159). -/
def execEncryptUnsupportedFmt12 (s : State) : Out := encryptUnsupported s

/-- ENCRYPT.UNSUPPORTED fmt=13 (R159). -/
def execEncryptUnsupportedFmt13 (s : State) : Out := encryptUnsupported s

/-- ENCRYPT.UNSUPPORTED fmt=14 (R159). -/
def execEncryptUnsupportedFmt14 (s : State) : Out := encryptUnsupported s

/-- ENCRYPT.UNSUPPORTED fmt=15 (R159). -/
def execEncryptUnsupportedFmt15 (s : State) : Out := encryptUnsupported s

end Sys2Proof.Machine
end

