-- ==== Sys2Proof/Machine/Illegal.lean ====
section
/-! DEFINITION. The illegal command word (42_format_dispatch.md R154, 60_exceptions.md R250). -/

namespace Sys2Proof.Machine

/-- ILLEGAL: ILLEGAL_COMPLETE, whatever the word's fields (R154). -/
def execIllegal (s : State) : Out :=
  .next s.illegalCompleted

end Sys2Proof.Machine
end

