-- ==== Sys2Proof/Machine/Dispatch.lean ====
section
/-! DEFINITION. The meaning of each instruction: what the engine does with an accepted command class, and what a CMD write
does with an illegal word. -/

namespace Sys2Proof.Machine

def exec (i : Instr) (s : State) : Host.Outcome State Fault Refusal :=
  match i with
  | .derive => Sys2Proof.Machine.execDerive s
  | .decrypt => Sys2Proof.Machine.execDecrypt s
  | .encryptLegacy => Sys2Proof.Machine.execEncryptLegacy s
  | .encryptFramed => Sys2Proof.Machine.execEncryptFramed s
  | .encryptUnsupportedFmt2 => Sys2Proof.Machine.execEncryptUnsupportedFmt2 s
  | .encryptUnsupportedFmt3 => Sys2Proof.Machine.execEncryptUnsupportedFmt3 s
  | .encryptUnsupportedFmt4 => Sys2Proof.Machine.execEncryptUnsupportedFmt4 s
  | .encryptUnsupportedFmt5 => Sys2Proof.Machine.execEncryptUnsupportedFmt5 s
  | .encryptUnsupportedFmt6 => Sys2Proof.Machine.execEncryptUnsupportedFmt6 s
  | .encryptUnsupportedFmt7 => Sys2Proof.Machine.execEncryptUnsupportedFmt7 s
  | .encryptUnsupportedFmt8 => Sys2Proof.Machine.execEncryptUnsupportedFmt8 s
  | .encryptUnsupportedFmt9 => Sys2Proof.Machine.execEncryptUnsupportedFmt9 s
  | .encryptUnsupportedFmt10 => Sys2Proof.Machine.execEncryptUnsupportedFmt10 s
  | .encryptUnsupportedFmt11 => Sys2Proof.Machine.execEncryptUnsupportedFmt11 s
  | .encryptUnsupportedFmt12 => Sys2Proof.Machine.execEncryptUnsupportedFmt12 s
  | .encryptUnsupportedFmt13 => Sys2Proof.Machine.execEncryptUnsupportedFmt13 s
  | .encryptUnsupportedFmt14 => Sys2Proof.Machine.execEncryptUnsupportedFmt14 s
  | .encryptUnsupportedFmt15 => Sys2Proof.Machine.execEncryptUnsupportedFmt15 s
  | .illegal _ _ _ => Sys2Proof.Machine.execIllegal s

end Sys2Proof.Machine
end

