-- ==== Sys2Proof/Machine/Flags.lean ====
section
/-! DEFINITION. The STATUS word and its fields (10_state.md R32), the codes of KSTATE (R23) and of the errors
(60_exceptions.md R242), and the interrupt output (10_state.md R41). -/

namespace Sys2Proof.Machine

/-- The code of KSTATE (R23). -/
def kstateCode : KState → BitVec 2
  | .unkeyed => 0
  | .keyed => 1
  | .failed => 2

/-- The code of an error (R242). -/
def errCode : ErrCode → BitVec 4
  | .ok => 0
  | .kdf => 1
  | .integrity => 2
  | .malformed => 3
  | .decoding => 4
  | .unsupported => 5
  | .notKeyed => 6
  | .length => 7
  | .illegal => 8

/-- The bit FMT_USED shows for a format (R32). -/
def formatBit : Format → Bool
  | .legacy => false
  | .framed => true

/-- Whether the sequencer is BUSY. -/
def Seq.isBusy : Seq → Bool
  | .idle => false
  | .busy _ => true

/-- STATUS.BUSY (R32). -/
def State.busyBit (s : State) : Bool := s.seq.isBusy

/-- STATUS.KEYED (R32). -/
def State.keyedBit (s : State) : Bool := s.kstate == .keyed

/-- STATUS.KFAIL (R32). -/
def State.kfailBit (s : State) : Bool := s.kstate == .failed

/-- The STATUS word: BUSY 0, DONE 1, KEYED 2, KFAIL 3, ERR 11:8, FMT_USED 16, the rest RES0 (R32). While BUSY, ERR is 0,
as acceptance left it (R75, R151; R32's text says the old value: DEDUCED, log 5). -/
def State.statusWord (s : State) : Word :=
  (0 : BitVec 15) ++ BitVec.ofBool (formatBit s.fmtUsed) ++ (0 : BitVec 4) ++ errCode s.err ++ (0 : BitVec 4) ++
    BitVec.ofBool s.kfailBit ++ BitVec.ofBool s.keyedBit ++ BitVec.ofBool s.done ++ BitVec.ofBool s.busyBit

/-- The CTRL word: IE in bit 0, the rest RES0 (R30). -/
def State.ctrlWord (s : State) : Word :=
  (0 : BitVec 31) ++ BitVec.ofBool s.ie

/-- The interrupt output `irq = STATUS.DONE & CTRL.IE` (R41, R254). -/
def State.irq (s : State) : Bool :=
  s.done && s.ie

end Sys2Proof.Machine
end

