-- ==== Sys2Proof/Machine/Bus.lean ====
section
/-! DEFINITION. The bus slave: the address map (10_state.md R28, 20_memory.md R62), reads and writes of every place, their
responses (R63 to R70), and the issue of a command by a CMD write (42_format_dispatch.md R150). -/

namespace Sys2Proof.Machine

/-- The registers of the map (10_state.md R28). -/
inductive Reg where
  | id
  | ctrl
  | cmd
  | status
  | inLen0
  | inLen1
  | outLen
  | bufSize
  | iv0
  | iv1
  | iv2
  | iv3
deriving DecidableEq, Repr

/-- What an implemented word address reaches: a register, or a word of a buffer window at a byte offset (R62). -/
inductive Place where
  | reg (r : Reg)
  | inBuf (o : Nat)
  | outBuf (o : Nat)
deriving DecidableEq, Repr

/-- The register at an offset of the register block (R28). -/
def regAt : Nat → Option Reg
  | 0x000 => some .id
  | 0x004 => some .ctrl
  | 0x008 => some .cmd
  | 0x00C => some .status
  | 0x010 => some .inLen0
  | 0x014 => some .inLen1
  | 0x018 => some .outLen
  | 0x01C => some .bufSize
  | 0x020 => some .iv0
  | 0x024 => some .iv1
  | 0x028 => some .iv2
  | 0x02C => some .iv3
  | _ => none

/-- The byte offset of a register (R28). -/
def regOffset : Reg → Nat
  | .id => 0x000
  | .ctrl => 0x004
  | .cmd => 0x008
  | .status => 0x00C
  | .inLen0 => 0x010
  | .inLen1 => 0x014
  | .outLen => 0x018
  | .bufSize => 0x01C
  | .iv0 => 0x020
  | .iv1 => 0x024
  | .iv2 => 0x028
  | .iv3 => 0x02C

/-- The first address of the IN_BUF window (R62). -/
def inBufBase : Nat := 0x10000

/-- The first address of the OUT_BUF window (R62). -/
def outBufBase : Nat := 0x20000

/-- The place of an address, with buffers of `bufBytes` bytes; none where the access gets the ERROR response: a misaligned
address (R63) or a reserved offset (R39, R64). -/
def placeOf (bufBytes : Nat) (a : Addr) : Option Place :=
  let n := a.toNat
  if n % 4 ≠ 0 then none
  else if n < inBufBase then (regAt n).map .reg
  else if n < outBufBase then (if n - inBufBase < bufBytes then some (.inBuf (n - inBufBase)) else none)
  else if n < 0x30000 then (if n - outBufBase < bufBytes then some (.outBuf (n - outBufBase)) else none)
  else none

/-! ### Reads -/

/-- `IVk`: bits `32k+31:32k` of IV_REG, which are bytes `4k` to `4k+3` in little-endian lanes (R38). -/
def State.ivWord (s : State) (k : Nat) : Word :=
  wordOfLanes (blockByte s.ivReg (4 * k)) (blockByte s.ivReg (4 * k + 1)) (blockByte s.ivReg (4 * k + 2))
    (blockByte s.ivReg (4 * k + 3))

/-- What a register reads (R29 to R38). -/
def State.readReg (s : State) : Reg → Word
  | .id => Config.idWord
  | .ctrl => s.ctrlWord
  | .cmd => 0
  | .status => s.statusWord
  | .inLen0 => s.inLen0
  | .inLen1 => s.inLen1
  | .outLen => s.outLen
  | .bufSize => BitVec.ofNat 32 s.bufBytes
  | .iv0 => s.ivWord 0
  | .iv1 => s.ivWord 1
  | .iv2 => s.ivWord 2
  | .iv3 => s.ivWord 3

/-- The word of IN_BUF at offset `o` (R65, R68). -/
def State.inWord (s : State) (o : Nat) : Word :=
  wordOfLanes (s.inByte o) (s.inByte (o + 1)) (s.inByte (o + 2)) (s.inByte (o + 3))

/-- Lane `j` of a read of OUT_BUF at offset `o`: the byte where it is defined, else a free value (R68; log 7). -/
def State.outLane (s : State) (o j : Nat) : Byte :=
  (s.outByte (o + j)).getD (Config.unspecifiedOutByte (s.outDraws + j))

/-- The word a read of OUT_BUF at offset `o` returns (R65, R68). -/
def State.outWord (s : State) (o : Nat) : Word :=
  wordOfLanes (s.outLane o 0) (s.outLane o 1) (s.outLane o 2) (s.outLane o 3)

/-- The state with the result of the last transaction (R61). -/
def State.answered (r : BusResult) (s : State) : State :=
  { s with busResult := r }

/-- The model's count of free OUT_BUF bytes moved on by one word (log 7). -/
def State.drewWord (s : State) : State :=
  { s with outDraws := s.outDraws + 4 }

/-- `BusRead(a)`: no side effect but the answer (R69). -/
def State.busRead (a : Addr) (s : State) : State :=
  match placeOf s.bufBytes a with
  | none => s.answered (.read 0 .error)
  | some (.reg r) => s.answered (.read (s.readReg r) .okay)
  | some (.inBuf o) => s.answered (.read (s.inWord o) .okay)
  | some (.outBuf o) => s.drewWord.answered (.read (s.outWord o) .okay)

/-! ### Writes -/

/-- CTRL written: IE is bit 0, the rest is ignored (R30, R66). -/
def State.ctrlWritten (w : Word) (s : State) : State :=
  { s with ie := w.getLsbD 0 }

/-- STATUS written: bit 1 clears DONE (R32), but loses to a completion in the same cycle (60_exceptions.md R253). -/
def State.statusWritten (completedNow : Bool) (w : Word) (s : State) : State :=
  { s with done := s.done && !(w.getLsbD 1 && !completedNow) }

/-- IN_LEN0 written (R34). -/
def State.inLen0Written (w : Word) (s : State) : State :=
  { s with inLen0 := w }

/-- IN_LEN1 written (R35). -/
def State.inLen1Written (w : Word) (s : State) : State :=
  { s with inLen1 := w }

/-- A word of IN_BUF written: `IN_BUF[o+j] <- w[8j+7:8j]` (R65). -/
def State.inWordWritten (o : Nat) (w : Word) (s : State) : State :=
  { s with inBuf := s.inBuf.writeBytes o [wordLane w 0, wordLane w 1, wordLane w 2, wordLane w 3] }

/-- A write of an operand place: performed when IDLE, refused with ERROR and no effect while BUSY (R67). -/
def State.operandWrite (f : State → State) (s : State) : State :=
  match s.seq with
  | .idle => (f s).answered (.write .okay)
  | .busy _ => s.answered (.write .error)

/-- The issue of a command by a CMD write of `w` (42_format_dispatch.md R150): refused while BUSY; an illegal word completes
at once (R154); any other word is accepted (R151). -/
def issueCommand (w : Word) (s : State) : Out :=
  match s.seq with
  | .busy _ => .next (s.answered (.write .error))
  | .idle =>
    if (decodeWord w).isIllegal then exec (decodeWord w) (s.answered (.write .okay))
    else .next ((s.answered (.write .okay)).accepted (decodeWord w))

/-- `BusWrite(CMD…)` and every other write to a register (R30 to R38, R66, R67). -/
def writeReg (completedNow : Bool) (r : Reg) (w : Word) (s : State) : Out :=
  match r with
  | .ctrl => .next ((s.ctrlWritten w).answered (.write .okay))
  | .cmd => issueCommand w s
  | .status => .next ((s.statusWritten completedNow w).answered (.write .okay))
  | .inLen0 => .next (s.operandWrite (·.inLen0Written w))
  | .inLen1 => .next (s.operandWrite (·.inLen1Written w))
  | .id => .next (s.answered (.write .okay))
  | .outLen => .next (s.answered (.write .okay))
  | .bufSize => .next (s.answered (.write .okay))
  | .iv0 => .next (s.answered (.write .okay))
  | .iv1 => .next (s.answered (.write .okay))
  | .iv2 => .next (s.answered (.write .okay))
  | .iv3 => .next (s.answered (.write .okay))

/-- `BusWrite(a, w)` (R61). `completedNow` says that a command completed in the same cycle (60_exceptions.md R253). -/
def busWrite (completedNow : Bool) (a : Addr) (w : Word) (s : State) : Out :=
  match placeOf s.bufBytes a with
  | none => .next (s.answered (.write .error))
  | some (.reg r) => writeReg completedNow r w s
  | some (.inBuf o) => .next (s.operandWrite (·.inWordWritten o w))
  | some (.outBuf _) => .next (s.answered (.write .okay))

/-- One bus transaction (R61). While rst_n = 0 the fabric must not issue one, and the model refuses it (R270, U13; log 10). -/
def busTransaction (completedNow : Bool) (t : BusTx) (s : State) : Out :=
  if ¬s.rstN then .refused .busDuringReset
  else
    match t with
    | .read a => .next (s.busRead a)
    | .write a w => busWrite completedNow a w s

end Sys2Proof.Machine
end

