-- ==== Sys2Proof/Machine/Engine.lean ====
section
/-! DEFINITION. The engine's turn (20_memory.md R77, 42_format_dispatch.md R150), events of one cycle (60_exceptions.md
R253), the reset line (70_reset_and_hazards.md R270 to R273), and one move of the outside world. -/

namespace Sys2Proof.Machine

/-- A turn of the engine: it runs the accepted command, does nothing when IDLE (60_exceptions.md R264), and is held while
rst_n = 0 (R270). SEQ = BUSY with the class ILLEGAL is excluded by the spec, and faults (log 13). -/
def engineTurn (s : State) : Out :=
  if ¬s.rstN then .next s
  else
    match s.seq with
    | .idle => .next s
    | .busy c => if c.isIllegal then .fault .illegalClassBusy else exec c s

/-- Whether the engine's turn from `s` to `t` completed a command. -/
def completedIn (s t : State) : Bool :=
  s.seq.isBusy && !t.seq.isBusy

/-- A turn of the engine with a transaction in the same cycle: the transaction comes after it, and a W1C of DONE loses to a
completion (60_exceptions.md R253; DEDUCED, log 12). -/
def engineAndBus (b : BusTx) (s : State) : Out :=
  match engineTurn s with
  | .next t => busTransaction (completedIn s t) b t
  | .fault r => .fault r
  | .refused r => .refused r

/-- The state while rst_n = 0: every element at its reset value (R270, R40), a running command abandoned (R272), the
buffers' bytes unspecified anew (R273; log 6). The parameter, the lines of the TRNG and the model's own fields stay. -/
def State.resetAsserted (s : State) : State :=
  { State.reset with
    bufBytes := s.bufBytes, trngValid := s.trngValid, trngData := s.trngData, rstN := false, inputs := s.inputs,
    resetEpoch := s.resetEpoch + 1, outDraws := s.outDraws }

/-- rst_n driven to a level (R270). -/
def State.resetDriven (level : Bool) (s : State) : State :=
  if level then { s with rstN := true } else s.resetAsserted

/-- The TRNG's lines driven (40_datapath_units.md R130); without a request of the engine they change nothing else (R272). -/
def State.trngDriven (valid : Bool) (data : Block) (s : State) : State :=
  { s with trngValid := valid, trngData := data }

/-- One move of the outside world, or the turn it leaves to the engine (R61). -/
def performInput (i : Input) (s : State) : Out :=
  match i with
  | .bus t => busTransaction false t s
  | .engine => engineTurn s
  | .engineAnd t => engineAndBus t s
  | .trng valid data => .next (s.trngDriven valid data)
  | .rst level => .next (s.resetDriven level)

end Sys2Proof.Machine
end

