-- ==== Sys2Proof/Machine/Step.lean ====
section
/-! DEFINITION. One step of JU-CORE, and how an instruction is placed for the next step to run. -/

namespace Sys2Proof.Machine

/-- The state with the moves of the outside world replaced. -/
def State.withInputs (l : List Input) (s : State) : State :=
  { s with inputs := l }

/-- One step: the next move of the outside world; with none pending, a turn of the engine (R61, R77; logs 2 and 11). -/
def step (s : State) : Host.Outcome State Fault Refusal :=
  match s.inputs with
  | [] => engineTurn s
  | i :: rest => performInput i (s.withInputs rest)

/-- The state in which the very next step runs the command word `w` (log 1). JU-CORE fetches nothing (R21): a legal word runs
once a CMD write of it has been accepted, so SEQ is BUSY with its class and the engine has the next turn; an illegal word runs
at its CMD write, so that write is the next move. -/
def State.withFetchWord (s : State) (nbits w : Nat) : State :=
  let word := tableWord nbits w
  let c := decodeWord word
  if c.isIllegal then
    { s with seq := .idle, rstN := true,
             inputs := .bus (.write (BitVec.ofNat 18 (regOffset .cmd)) word) :: s.inputs }
  else
    { s with seq := .busy c, rstN := true, done := false, err := .ok, outLen := 0, inputs := .engine :: s.inputs }

end Sys2Proof.Machine
end

