-- ==== Sys2Proof/Machine/HostNotation.lean ====
section
/-! DEFINITION. The host's program notation (30_encoding.md R101, R102): each line and pseudo-instruction as the bus
transactions it stands for. WAIT is a loop of the host's own, so only its STATUS read is given here (log 21). -/

namespace Sys2Proof.Machine

/-- The bus address of a register (R101). -/
def regAddr (r : Reg) : Addr :=
  BitVec.ofNat 18 (regOffset r)

/-- `WR <reg>, w` (R101). -/
def hostWr (r : Reg) (w : Word) : Input :=
  .bus (.write (regAddr r) w)

/-- `RD <reg>` (R101). -/
def hostRd (r : Reg) : Input :=
  .bus (.read (regAddr r))

/-- `WR IN_BUF+off, w` (R101). -/
def hostWrIn (off : Nat) (w : Word) : Input :=
  .bus (.write (BitVec.ofNat 18 (inBufBase + off)) w)

/-- `RD OUT_BUF+off` (R101). -/
def hostRdOut (off : Nat) : Input :=
  .bus (.read (BitVec.ofNat 18 (outBufBase + off)))

/-- `CMD <mnemonic>`: the CMD write of the instruction's word (R102). -/
def hostCmd (i : Instr) : Input :=
  hostWr .cmd (encodeWord i)

/-- The word `w_k` of LOADB: bytes `4k` to `4k+3` in lanes, bytes past the end taken as 0 (R102). -/
def loadWord (B : Bytes) (k : Nat) : Word :=
  wordOfLanes (B.getD (4 * k) 0) (B.getD (4 * k + 1) 0) (B.getD (4 * k + 2) 0) (B.getD (4 * k + 3) 0)

/-- `LOADB off, B` (R102). -/
def hostLoadB (off : Nat) (B : Bytes) : List Input :=
  (List.range ((B.length + 3) / 4)).map fun k => hostWrIn (off + 4 * k) (loadWord B k)

/-- One poll of `WAIT`: `RD STATUS` (R102). -/
def hostPoll : Input :=
  hostRd .status

/-- The reads of `READB n` (R102). -/
def hostReadB (n : Nat) : List Input :=
  (List.range ((n + 3) / 4)).map fun k => hostRdOut (4 * k)

/-- The name `READB n` binds: the first `n` bytes of the words read, unpacked in lane order (R102). -/
def readBBytes (n : Nat) (ws : List Word) : Bytes :=
  (ws.flatMap fun w => [wordLane w 0, wordLane w 1, wordLane w 2, wordLane w 3]).take n

end Sys2Proof.Machine
end

