-- ==== Sys2Proof/Safety.lean ====
section
/-! DEFINITION. What counts as a sound state of JU-CORE and as a safe step: the invariant that reset establishes and every
step keeps, and that a step answers a next state. -/

namespace Sys2Proof.Machine

/-- The buffers: canonical, within BUF_BYTES (20_memory.md R73), OUT_LEN ≤ BUF_BYTES (10_state.md R36), and when IDLE every
byte of OUT_BUF below OUT_LEN is defined (R33, R36). -/
abbrev State.BuffersOk (s : State) : Prop :=
  Memory.wf s.inBuf = true ∧ Memory.below s.bufBytes s.inBuf = true ∧
  Memory.wf s.outBuf = true ∧ Memory.below s.bufBytes s.outBuf = true ∧
  s.outLen.toNat ≤ s.bufBytes ∧
  (s.seq = .idle → ∀ i, i < s.outLen.toNat → (Memory.read s.outBuf i).isSome = true)

/-- The keys: TEMP_KEY is zero between steps (10_state.md R25, R145), CIPHER_KEY is zero while KSTATE ≠ KEYED (R24). -/
abbrev State.KeysOk (s : State) : Prop :=
  s.tempKey = 0 ∧ (s.kstate ≠ .keyed → s.cipherKey = 0)

/-- The sequencer: BUSY only with a legal class (R95, R150), with DONE, ERR and OUT_LEN as acceptance left them (R75, R151); a
TRNG request only while BUSY with ENCRYPT.FRAMED (60_exceptions.md R260). -/
def State.sequencerOk (s : State) : Bool :=
  match s.seq with
  | .idle => !s.trngReq
  | .busy c =>
    !c.isIllegal && !s.done && s.err == .ok && s.outLen == 0 && (!s.trngReq || c == .encryptFramed)

/-- While reset is asserted every element of 10_state.md R40 holds its reset value (70_reset_and_hazards.md R270); the keys that
are not named here are zero by `KeysOk`. -/
abbrev State.ResetOk (s : State) : Prop :=
  s.rstN = false →
    s.seq = .idle ∧ s.kstate = .unkeyed ∧ s.ivReg = 0 ∧ s.ie = false ∧ s.done = false ∧ s.err = .ok ∧ s.fmtUsed = .legacy ∧
    s.inLen0 = 0 ∧ s.inLen1 = 0 ∧ s.outLen = 0 ∧ s.inBuf = [] ∧ s.trngReq = false

/-- The invariant of JU-CORE. -/
abbrev State.Inv (s : State) : Prop :=
  Config.validBufBytes s.bufBytes = true ∧ s.BuffersOk ∧ s.KeysOk ∧ s.sequencerOk = true ∧ s.ResetOk

/-! ### What a command leaves, for statements about commands -/

/-- What no command changes: the parameter, every byte of IN_BUF, IN_LEN0, IN_LEN1, CTRL, the input lines, the answer of the
last transaction and the model's own fields (20_memory.md R73, 10_state.md R33 to R35). -/
def CommandFrame (s t : State) : Prop :=
  t.bufBytes = s.bufBytes ∧ (∀ i, Memory.read t.inBuf i = Memory.read s.inBuf i) ∧ t.inLen0 = s.inLen0 ∧
  t.inLen1 = s.inLen1 ∧ t.ie = s.ie ∧ t.trngValid = s.trngValid ∧ t.trngData = s.trngData ∧ t.rstN = s.rstN ∧
  t.busResult = s.busResult ∧ t.inputs = s.inputs ∧ t.resetEpoch = s.resetEpoch ∧ t.outDraws = s.outDraws

/-- The key state is as it was: KSTATE, CIPHER_KEY, TEMP_KEY. -/
def KeysSame (s t : State) : Prop :=
  t.kstate = s.kstate ∧ t.cipherKey = s.cipherKey ∧ t.tempKey = s.tempKey

/-- A successful completion with output `B`: IDLE, DONE, ERR = 0, OUT_LEN = len(B), the defined bytes of OUT_BUF exactly
those of `B`, no TRNG request (42_format_dispatch.md R152, 10_state.md R33). -/
def CompletedOk (B : Bytes) (t : State) : Prop :=
  t.seq = .idle ∧ t.done = true ∧ t.err = .ok ∧ t.outLen.toNat = B.length ∧ (∀ i, t.outByte i = B[i]?) ∧ t.trngReq = false

/-- An error completion with code `e`: IDLE, DONE, ERR = e, OUT_LEN = 0, no byte of OUT_BUF defined, no TRNG request
(60_exceptions.md R240). -/
def CompletedErr (e : ErrCode) (t : State) : Prop :=
  t.seq = .idle ∧ t.done = true ∧ t.err = e ∧ t.outLen = 0 ∧ (∀ i, t.outByte i = none) ∧ t.trngReq = false

/-- A safe outcome: a next state, no fault and no refusal. -/
def Safe (o : Out) : Prop :=
  ∃ t, o = .next t

/-- The fabric keeps R270's rule: no bus transaction comes while reset is asserted. -/
def State.FabricOk (s : State) : Prop :=
  s.rstN = false → ∀ t rest, s.inputs ≠ .bus t :: rest ∧ s.inputs ≠ .engineAnd t :: rest

end Sys2Proof.Machine
end

