-- ==== Sys2Proof/Certificates/Slice0/Obligations.lean ====
section
/-! DEFINITION. The statements for the provers, each formalising rules of spec/ that its docstring names. -/

open Sys2Proof Sys2Proof.Machine

/-! ### Encoding -/

/-- Decoding the bytes of a well-formed instruction gives it back, whatever bytes follow (30_encoding.md R90, R93, R94). -/
def Obligations.DecodeEncodeRoundTrip : Prop :=
  ∀ (i : Instr) (rest : Bytes), i.wf = true → decode (encode i ++ rest) = .ok (i, rest)

/-- Every word decodes to a well-formed instruction, whose word it is: decode is total and drops no bit (R93, R95). -/
def Obligations.EncodeDecodeRoundTrip : Prop :=
  ∀ w : Word, (decodeWord w).wf = true ∧ encodeWord (decodeWord w) = w

/-- R93: the legal words are exactly these eighteen, each with its class; every other word is ILLEGAL. -/
def Obligations.LegalWordsAreExactlyTheTable : Prop :=
  ∀ (w : Word) (i : Instr), i.isIllegal = false →
    (decodeWord w = i ↔
      (w, i) ∈ [((0x01 : Word), Instr.derive), (0x02, .decrypt), (0x03, .encryptLegacy), (0x13, .encryptFramed),
        (0x23, .encryptUnsupportedFmt2), (0x33, .encryptUnsupportedFmt3), (0x43, .encryptUnsupportedFmt4),
        (0x53, .encryptUnsupportedFmt5), (0x63, .encryptUnsupportedFmt6), (0x73, .encryptUnsupportedFmt7),
        (0x83, .encryptUnsupportedFmt8), (0x93, .encryptUnsupportedFmt9), (0xA3, .encryptUnsupportedFmt10),
        (0xB3, .encryptUnsupportedFmt11), (0xC3, .encryptUnsupportedFmt12), (0xD3, .encryptUnsupportedFmt13),
        (0xE3, .encryptUnsupportedFmt14), (0xF3, .encryptUnsupportedFmt15)])

/-- A few words read bit by bit from R90, R94 and R95 (a sanity statement). -/
def Obligations.DecodedSampleWords : Prop :=
  decodeTableWord 32 0b00000000000000000000000000000001 = some .derive ∧
  decodeTableWord 32 0b00000000000000000000000000000010 = some .decrypt ∧
  decodeTableWord 32 0b00000000000000000000000000000011 = some .encryptLegacy ∧
  decodeTableWord 32 0b00000000000000000000000000010011 = some .encryptFramed ∧
  decodeTableWord 32 0b00000000000000000000000000100011 = some .encryptUnsupportedFmt2 ∧
  decodeTableWord 32 0b00000000000000000000000100000011 = some (.illegal 3 0 1)

/-! ### The step -/

/-- When SEQ is BUSY with the legal class `c` and the engine has the next turn, the step is `exec` of `c`: at the state itself
when no move of the outside world is pending, at the state with the turn taken from the list otherwise. The form is the model's:
that the moves of the outside world stand in a list (assumption log 2) and that an empty list gives the engine its turn (logs 2
and 11) are DESIGN CHOICES, that one turn runs the command is DEDUCED (log 3). R77 says a model may take a command as one step,
and R150 that the command runs as the engine step that follows its acceptance; neither speaks of a list or of turns. -/
def Obligations.StepRunsTheAcceptedCommand : Prop :=
  ∀ (s : State) (c : Instr), s.rstN = true → s.seq = .busy c → c.isIllegal = false →
    (s.inputs = [] → step s = exec c s) ∧
    (∀ rest, s.inputs = .engine :: rest → step s = exec c (s.withInputs rest))

/-- R150: a CMD write while BUSY is refused and has no effect; an illegal word completes at once; any other word is accepted,
all in the step that performs the write. The address is that of CMD, 0x008. -/
def Obligations.CmdWriteIssuesCommand : Prop :=
  ∀ (s : State) (w : Word) (rest : List Input), s.rstN = true → s.inputs = .bus (.write 0x008 w) :: rest →
    (s.seq.isBusy = true → step s = .next { s with inputs := rest, busResult := .write .error }) ∧
    (s.seq = .idle → (decodeWord w).isIllegal = true →
      step s = exec (decodeWord w) { s with inputs := rest, busResult := .write .okay } ∧
      step s = .next { s with inputs := rest, busResult := .write .okay, err := .illegal, outLen := 0, done := true }) ∧
    (s.seq = .idle → (decodeWord w).isIllegal = false →
      step s = .next { s with inputs := rest, busResult := .write .okay, seq := .busy (decodeWord w), done := false,
                              err := .ok, outLen := 0 })

/-- The step after `withFetchWord` runs exactly the instruction the word decodes to: a legal one in the state of its
acceptance, an illegal one at its CMD write (the model's choice of where a word is placed, assumption log 1). -/
def Obligations.FetchWordRunsTheDecodedInstruction : Prop :=
  ∀ (s : State) (n : Nat), n < 2 ^ 32 →
    ((decodeWord (BitVec.ofNat 32 n)).isIllegal = false →
      step (s.withFetchWord 32 n) =
        exec (decodeWord (BitVec.ofNat 32 n))
          { s with seq := .busy (decodeWord (BitVec.ofNat 32 n)), rstN := true, done := false, err := .ok, outLen := 0 }) ∧
    ((decodeWord (BitVec.ofNat 32 n)).isIllegal = true →
      step (s.withFetchWord 32 n) =
        exec (decodeWord (BitVec.ofNat 32 n)) { s with seq := .idle, rstN := true, busResult := .write .okay })

/-! ### The bus -/

/-- R63: an access at a misaligned address gets ERROR, a read returns 0, and nothing else changes. -/
def Obligations.MisalignedAccessGetsError : Prop :=
  ∀ (s : State) (a : Addr) (rest : List Input), s.rstN = true → a.toNat % 4 ≠ 0 →
    (s.inputs = .bus (.read a) :: rest → step s = .next { s with inputs := rest, busResult := .read 0 .error }) ∧
    (∀ w, s.inputs = .bus (.write a w) :: rest → step s = .next { s with inputs := rest, busResult := .write .error })

/-- R64: an access to a reserved offset gets ERROR, a read returns 0, and nothing else changes. -/
def Obligations.ReservedOffsetGetsError : Prop :=
  ∀ (s : State) (a : Addr) (rest : List Input), s.rstN = true →
    ((0x30 ≤ a.toNat ∧ a.toNat < 0x10000) ∨ (0x10000 + s.bufBytes ≤ a.toNat ∧ a.toNat < 0x20000) ∨
      (0x20000 + s.bufBytes ≤ a.toNat ∧ a.toNat < 0x30000) ∨ 0x30000 ≤ a.toNat) →
    (s.inputs = .bus (.read a) :: rest → step s = .next { s with inputs := rest, busResult := .read 0 .error }) ∧
    (∀ w, s.inputs = .bus (.write a w) :: rest → step s = .next { s with inputs := rest, busResult := .write .error })

/-- R66: a write to ID, OUT_LEN, BUFSIZE, IV0 to IV3 or the OUT_BUF window gets OKAY and changes nothing; a write to STATUS
changes DONE at most; a write to CTRL sets IE alone, from bit 0; a read of CMD returns 0. -/
def Obligations.ReadOnlyWritesAreIgnored : Prop :=
  ∀ (s : State) (a : Addr) (w : Word) (rest : List Input), s.rstN = true →
    (s.inputs = .bus (.write a w) :: rest →
      ((a = 0x000 ∨ a = 0x018 ∨ a = 0x01C ∨ a = 0x020 ∨ a = 0x024 ∨ a = 0x028 ∨ a = 0x02C ∨
          (a.toNat % 4 = 0 ∧ 0x20000 ≤ a.toNat ∧ a.toNat < 0x20000 + s.bufBytes ∧ a.toNat < 0x30000)) →
        step s = .next { s with inputs := rest, busResult := .write .okay }) ∧
      (a = 0x00C → ∃ d, step s = .next { s with inputs := rest, busResult := .write .okay, done := d }) ∧
      (a = 0x004 → step s = .next { s with inputs := rest, busResult := .write .okay, ie := w.getLsbD 0 })) ∧
    (s.inputs = .bus (.read 0x008) :: rest → step s = .next { s with inputs := rest, busResult := .read 0 .okay })

/-- R67: while BUSY a write to CMD, IN_LEN0, IN_LEN1 or the IN_BUF window gets ERROR and has no effect; writes to CTRL and
STATUS are performed, and reads of every implemented word are performed. -/
def Obligations.BusyRefusesOperandWrites : Prop :=
  ∀ (s : State) (rest : List Input), s.rstN = true → s.seq.isBusy = true →
    (∀ (a : Addr) (w : Word), s.inputs = .bus (.write a w) :: rest →
      ((a = 0x008 ∨ a = 0x010 ∨ a = 0x014 ∨
          (a.toNat % 4 = 0 ∧ 0x10000 ≤ a.toNat ∧ a.toNat < 0x10000 + s.bufBytes ∧ a.toNat < 0x20000)) →
        step s = .next { s with inputs := rest, busResult := .write .error }) ∧
      (a = 0x004 → step s = .next { s with inputs := rest, busResult := .write .okay, ie := w.getLsbD 0 }) ∧
      (a = 0x00C →
        step s = .next { s with inputs := rest, busResult := .write .okay, done := s.done && !w.getLsbD 1 })) ∧
    (∀ a : Addr, s.inputs = .bus (.read a) :: rest →
      (a.toNat % 4 = 0 ∧ (a.toNat < 0x30 ∨ (0x10000 ≤ a.toNat ∧ a.toNat < 0x10000 + s.bufBytes ∧ a.toNat < 0x20000) ∨
        (0x20000 ≤ a.toNat ∧ a.toNat < 0x20000 + s.bufBytes ∧ a.toNat < 0x30000))) →
      ∃ t d, step s = .next t ∧ t.busResult = .read d .okay)

/-- No read has a side effect (R69): a read changes the answer of the last transaction, the list of moves and the model's own
count of free bytes, and nothing else (the count is the model's, assumption log 7). -/
def Obligations.ReadsHaveNoSideEffect : Prop :=
  ∀ (s : State) (a : Addr) (rest : List Input), s.rstN = true → s.inputs = .bus (.read a) :: rest →
    ∃ d r n, step s = .next { s with inputs := rest, busResult := .read d r, outDraws := n }

/-- R65 and R68 for the IN_BUF window. Whatever SEQ is, a read of the word at offset `o` returns in lane `j` the byte that IN_BUF
holds at index `o + j`, and changes nothing but the answer. While IDLE a write of word `w` at offset `o` stores byte lane `j` at
index `o + j`, leaves every other byte and every other field as it was, and a read of that word right after returns `w`. -/
def Obligations.InBufWordWriteThenRead : Prop :=
  (∀ (s : State) (o : Nat) (rest : List Input), s.rstN = true → Config.validBufBytes s.bufBytes = true → o % 4 = 0 →
    o < s.bufBytes → s.inputs = .bus (.read (BitVec.ofNat 18 (0x10000 + o))) :: rest →
    ∃ d, step s = .next { s with inputs := rest, busResult := .read d .okay } ∧
      (∀ j, j < 4 → d.extractLsb' (8 * j) 8 = s.inByte (o + j)) ∧
      (∀ j b, j < 4 → Memory.read s.inBuf (o + j) = some b → d.extractLsb' (8 * j) 8 = b)) ∧
  ∀ (s : State) (o : Nat) (w : Word) (rest : List Input), s.rstN = true → s.seq = .idle →
    Config.validBufBytes s.bufBytes = true → o % 4 = 0 → o < s.bufBytes →
    s.inputs = .bus (.write (BitVec.ofNat 18 (0x10000 + o)) w) :: .bus (.read (BitVec.ofNat 18 (0x10000 + o))) :: rest →
    ∃ t u, step s = .next t ∧ step t = .next u ∧
      (∀ j, j < 4 → t.inByte (o + j) = w.extractLsb' (8 * j) 8) ∧
      (∀ i, i < o ∨ o + 4 ≤ i → Memory.read t.inBuf i = Memory.read s.inBuf i) ∧
      t = { s with inBuf := t.inBuf, inputs := .bus (.read (BitVec.ofNat 18 (0x10000 + o))) :: rest,
                   busResult := .write .okay } ∧
      u = { t with inputs := rest, busResult := .read w .okay }

/-- IN_LEN0 and IN_LEN1 read as the value they hold, whatever SEQ is; while IDLE a write of either stores any 32-bit value,
which reads back unchanged (R34, R35). -/
def Obligations.OperandLengthWriteThenRead : Prop :=
  (∀ (s : State) (rest : List Input), s.rstN = true →
    (s.inputs = .bus (.read 0x010) :: rest →
      step s = .next { s with inputs := rest, busResult := .read s.inLen0 .okay }) ∧
    (s.inputs = .bus (.read 0x014) :: rest →
      step s = .next { s with inputs := rest, busResult := .read s.inLen1 .okay })) ∧
  ∀ (s : State) (w : Word) (rest : List Input), s.rstN = true → s.seq = .idle →
    (s.inputs = .bus (.write 0x010 w) :: .bus (.read 0x010) :: rest →
      ∃ t, step s = .next t ∧
        t = { s with inLen0 := w, inputs := .bus (.read 0x010) :: rest, busResult := .write .okay } ∧
        step t = .next { t with inputs := rest, busResult := .read w .okay }) ∧
    (s.inputs = .bus (.write 0x014 w) :: .bus (.read 0x014) :: rest →
      ∃ t, step s = .next t ∧
        t = { s with inLen1 := w, inputs := .bus (.read 0x014) :: rest, busResult := .write .okay } ∧
        step t = .next { t with inputs := rest, busResult := .read w .okay })

/-- A read of IVk returns bytes `4k` to `4k+3` of IV_REG in little-endian lanes, whatever SEQ is (R38). -/
def Obligations.IvRegistersReadIvRegInLanes : Prop :=
  ∀ (s : State) (k : Nat) (rest : List Input), s.rstN = true → k < 4 →
    s.inputs = .bus (.read (BitVec.ofNat 18 (0x020 + 4 * k))) :: rest →
    ∃ d, step s = .next { s with inputs := rest, busResult := .read d .okay } ∧
      ∀ j, j < 4 → some (d.extractLsb' (8 * j) 8) = (blockBytes s.ivReg)[4 * k + j]?

/-- A read of ID, CTRL, STATUS, OUT_LEN and BUFSIZE returns the constant, IE in bit 0, the STATUS word, OUT_LEN and BUF_BYTES
(R29, R30, R32, R36, R37). -/
def Obligations.RegisterReadsReturnTheirValue : Prop :=
  ∀ (s : State) (rest : List Input), s.rstN = true →
    (s.inputs = .bus (.read 0x000) :: rest →
      step s = .next { s with inputs := rest, busResult := .read 0x4A550001 .okay }) ∧
    (s.inputs = .bus (.read 0x004) :: rest →
      step s = .next { s with inputs := rest, busResult := .read (if s.ie then 1 else 0) .okay }) ∧
    (s.inputs = .bus (.read 0x00C) :: rest →
      step s = .next { s with inputs := rest, busResult := .read s.statusWord .okay }) ∧
    (s.inputs = .bus (.read 0x018) :: rest →
      step s = .next { s with inputs := rest, busResult := .read s.outLen .okay }) ∧
    (s.inputs = .bus (.read 0x01C) :: rest →
      step s = .next { s with inputs := rest, busResult := .read (BitVec.ofNat 32 s.bufBytes) .okay })

/-- The STATUS word bit by bit: each field in its place, every RES0 bit 0, KEYED and KFAIL never both 1; the number ERR shows
for each of the nine codes of R242, and at most 8 in all (R32, R242; the value of ERR while BUSY is DEDUCED, assumption log 5). -/
def Obligations.StatusWordShowsTheFields : Prop :=
  ∀ (s : State),
    (∀ i, s.statusWord.getLsbD i =
      if i = 0 then s.seq.isBusy
      else if i = 1 then s.done
      else if i = 2 then decide (s.kstate = .keyed)
      else if i = 3 then decide (s.kstate = .failed)
      else if 8 ≤ i ∧ i ≤ 11 then (errCode s.err).getLsbD (i - 8)
      else if i = 16 then decide (s.fmtUsed = .framed)
      else false) ∧
    ¬(s.statusWord.getLsbD 2 = true ∧ s.statusWord.getLsbD 3 = true) ∧
    (s.statusWord.extractLsb' 8 4).toNat ≤ 8 ∧
    ∀ e n, (e, n) ∈ [(ErrCode.ok, 0), (.kdf, 1), (.integrity, 2), (.malformed, 3), (.decoding, 4), (.unsupported, 5),
        (.notKeyed, 6), (.length, 7), (.illegal, 8)] → s.err = e → (s.statusWord.extractLsb' 8 4).toNat = n

/-- What the host sees while BUSY in a sound state: BUSY is 1, DONE 0, ERR 0, OUT_LEN 0, and no byte of OUT_BUF is defined
(R75, R151; ERR is DEDUCED, assumption log 5). -/
def Obligations.BusyShowsNoResult : Prop :=
  ∀ s : State, s.Inv → s.seq.isBusy = true →
    s.statusWord.getLsbD 0 = true ∧ s.statusWord.getLsbD 1 = false ∧ s.statusWord.extractLsb' 8 4 = 0 ∧
    s.readReg .outLen = 0 ∧ ∀ i, s.outByte i = none

/-- What a bus transaction does, the value a read returns included, does not depend on the undefined bytes of OUT_BUF: a memory
`m` in OUT_BUF's place that agrees with it on the defined bytes gives the same answer and the same state but for itself (R33, R68,
U1, U2). -/
def Obligations.UndefinedOutputIsNotReadBack : Prop :=
  ∀ (s : State) (m : Memory) (x : BusTx) (rest : List Input) (t : State), s.inputs = .bus x :: rest →
    (∀ i b, s.outByte i = some b → Memory.read m i = some b) →
    (∀ i, s.seq = .idle → i < s.outLen.toNat → Memory.read s.outBuf i = none → Memory.read m i = none) →
    step s = .next t → step { s with outBuf := m } = .next { t with outBuf := m }

/-- A read of a word of the OUT_BUF window while IDLE returns in lane `j` the byte of index `o + j` when it is defined
(R65, R68). -/
def Obligations.OutBufReadReturnsDefinedBytes : Prop :=
  ∀ (s : State) (o : Nat) (rest : List Input), s.rstN = true → Config.validBufBytes s.bufBytes = true →
    o % 4 = 0 → o < s.bufBytes → s.inputs = .bus (.read (BitVec.ofNat 18 (0x20000 + o))) :: rest →
    ∃ d n, step s = .next { s with inputs := rest, busResult := .read d .okay, outDraws := n } ∧
      ∀ j b, j < 4 → s.outByte (o + j) = some b → d.extractLsb' (8 * j) 8 = b

/-- A write to STATUS clears DONE when bit 1 of the word is 1 and changes nothing else; in particular ERR stays (R32). -/
def Obligations.StatusWriteClearsOnlyDone : Prop :=
  ∀ (s : State) (w : Word) (rest : List Input), s.rstN = true → s.inputs = .bus (.write 0x00C w) :: rest →
    (w.getLsbD 1 = true → step s = .next { s with inputs := rest, busResult := .write .okay, done := false }) ∧
    (w.getLsbD 1 = false → step s = .next { s with inputs := rest, busResult := .write .okay })

/-- Every transaction in the cycle of a completion comes after it (R253): but for a write of STATUS it does what it does as the
next move in the completed state, where SEQ is IDLE. So a read sees the results, writes of CTRL, IN_LEN0, IN_LEN1 and IN_BUF are
performed, a CMD write of a legal word is accepted and one of an illegal word completes. A W1C of DONE loses, and DONE stays 1.
With SEQ IDLE nothing completes, and a STATUS write clears DONE as ever (the form is DEDUCED, assumption log 12). -/
def Obligations.CompletionBeatsSameCycleClear : Prop :=
  (∀ (s u : State) (c : Instr) (x : BusTx) (rest : List Input), s.rstN = true → s.seq = .busy c → c.isIllegal = false →
    exec c (s.withInputs rest) = .next u → u.seq = .idle → s.inputs = .engineAnd x :: rest →
    ((∀ w, x ≠ .write 0x00C w) → step s = step { u with inputs := .bus x :: rest }) ∧
    (∀ w, x = .write 0x00C w → step s = .next { u with busResult := .write .okay } ∧ u.done = true) ∧
    (∀ w, x = .write 0x004 w → step s = .next { u with busResult := .write .okay, ie := w.getLsbD 0 }) ∧
    (∀ w, x = .write 0x010 w → step s = .next { u with busResult := .write .okay, inLen0 := w }) ∧
    (∀ w, x = .write 0x014 w → step s = .next { u with busResult := .write .okay, inLen1 := w }) ∧
    (∀ o w, x = .write (BitVec.ofNat 18 (0x10000 + o)) w → Config.validBufBytes s.bufBytes = true → o % 4 = 0 →
      o < s.bufBytes →
      ∃ t, step s = .next t ∧ t = { u with inBuf := t.inBuf, busResult := .write .okay } ∧
        (∀ j, j < 4 → t.inByte (o + j) = w.extractLsb' (8 * j) 8) ∧
        (∀ i, i < o ∨ o + 4 ≤ i → Memory.read t.inBuf i = Memory.read s.inBuf i)) ∧
    (∀ w, x = .write 0x008 w → (decodeWord w).isIllegal = false →
      step s = .next { u with busResult := .write .okay, seq := .busy (decodeWord w), done := false, err := .ok,
                              outLen := 0 }) ∧
    (∀ w, x = .write 0x008 w → (decodeWord w).isIllegal = true →
      step s = .next { u with busResult := .write .okay, err := .illegal, outLen := 0, done := true })) ∧
  ∀ (s : State) (x : BusTx) (rest : List Input), s.rstN = true → s.seq = .idle → s.inputs = .engineAnd x :: rest →
    step s = step { s with inputs := .bus x :: rest }

/-- The interrupt is DONE and IE: setting IE while DONE = 1 raises it, clearing IE lowers it and leaves DONE, clearing DONE
lowers it (R41, R254, R255). -/
def Obligations.InterruptFollowsDoneAndEnable : Prop :=
  ∀ (s : State) (w : Word) (rest : List Input), s.rstN = true →
    (s.irq = true ↔ s.done = true ∧ s.ie = true) ∧
    (s.inputs = .bus (.write 0x004 w) :: rest →
      ∃ t, step s = .next t ∧ t.irq = (s.done && w.getLsbD 0) ∧ t.done = s.done) ∧
    (s.inputs = .bus (.write 0x00C w) :: rest → w.getLsbD 1 = true →
      ∃ t, step s = .next t ∧ t.irq = false ∧ t.ie = s.ie)

/-- Completion is the only event that sets DONE (R241): a step that sets it either ended a running command or performed a CMD
write of an illegal word. -/
def Obligations.OnlyCompletionSetsDone : Prop :=
  ∀ s t : State, step s = .next t → s.done = false → t.done = true →
    t.seq = .idle ∧
    (s.seq.isBusy = true ∨
      ∃ w rest, (decodeWord w).isIllegal = true ∧
        (s.inputs = .bus (.write 0x008 w) :: rest ∨ s.inputs = .engineAnd (.write 0x008 w) :: rest))

/-! ### DERIVE and the key state -/

/-- DERIVE on a good key pair (R140, R143): CIPHER_KEY takes the first 16 bytes of the decrypted Hudson secret key, KSTATE
becomes KEYED, the output is empty, TEMP_KEY is cleared, and IV_REG, FMT_USED and everything the host writes stay. `D` is the
Hudson secret key decrypted under the first 16 bytes of the master key's digest (R118); the marker test is R121's. -/
def Obligations.DeriveLoadsTheKey : Prop :=
  ∀ (s : State) (D : Bytes), s.len0 + s.len1 ≤ s.bufBytes → 32 ≤ s.len1 → s.len1 % 16 = 0 →
    D = ecbD ((sha256 (s.memReadIn 0 s.len0)).take 16) (s.memReadIn s.len0 s.len1) →
    29 ≤ D.length → (D.drop 16).take 13 = marker →
    ∃ t, exec .derive s = .next t ∧ t.kstate = .keyed ∧ blockBytes t.cipherKey = D.take 16 ∧
      t.tempKey = 0 ∧ CompletedOk [] t ∧ t.ivReg = s.ivReg ∧ t.fmtUsed = s.fmtUsed ∧ CommandFrame s t

/-- DERIVE's failures, in the order of R142, and their effect, R144: the code, CIPHER_KEY zero and KSTATE FAILED whatever it
was; TEMP_KEY is cleared, and IV_REG, FMT_USED and everything the host writes stay. `D` is the Hudson secret key decrypted under
the first 16 bytes of the master key's digest (R118), and the marker test is R121's. -/
def Obligations.DeriveFailureLeavesNoKey : Prop :=
  ∀ (s : State) (D : Bytes) (e : ErrCode),
    D = ecbD ((sha256 (s.memReadIn 0 s.len0)).take 16) (s.memReadIn s.len0 s.len1) →
    ((e = .length ∧ s.bufBytes < s.len0 + s.len1) ∨
      (e = .kdf ∧ s.len0 + s.len1 ≤ s.bufBytes ∧
        (s.len1 < 32 ∨ s.len1 % 16 ≠ 0 ∨ ¬(29 ≤ D.length ∧ (D.drop 16).take 13 = marker)))) →
    ∃ t, exec .derive s = .next t ∧ t.kstate = .failed ∧ t.cipherKey = 0 ∧ t.tempKey = 0 ∧ CompletedErr e t ∧
      t.ivReg = s.ivReg ∧ t.fmtUsed = s.fmtUsed ∧ CommandFrame s t

/-- R147: DERIVE's result is a function of IN_LEN0, IN_LEN1 and the operand bytes of IN_BUF alone (with BUF_BYTES one). -/
def Obligations.DeriveDependsOnItsOperandsAlone : Prop :=
  ∀ s s' t t' : State, s'.bufBytes = s.bufBytes → s'.inLen0 = s.inLen0 → s'.inLen1 = s.inLen1 →
    (∀ i, i < s.len0 + s.len1 → s'.inByte i = s.inByte i) →
    exec .derive s = .next t → exec .derive s' = .next t' →
    t'.kstate = t.kstate ∧ t'.cipherKey = t.cipherKey ∧ t'.tempKey = t.tempKey ∧ t'.err = t.err ∧ t'.outLen = t.outLen ∧
      t'.done = t.done ∧ t'.seq = t.seq

/-- Only DERIVE, and reset, write KSTATE and CIPHER_KEY (R23, R24): a step that changes either was a turn of the engine with
DERIVE accepted, outside reset, or drove rst_n low. -/
def Obligations.OnlyDeriveAndResetWriteTheKey : Prop :=
  ∀ s t : State, step s = .next t → (t.kstate ≠ s.kstate ∨ t.cipherKey ≠ s.cipherKey) →
    (s.seq = .busy .derive ∧ s.rstN = true ∧
      (s.inputs = [] ∨ ∃ rest, s.inputs = .engine :: rest ∨ ∃ x, s.inputs = .engineAnd x :: rest)) ∨
    ∃ rest, s.inputs = .rst false :: rest

/-- Only reset returns KSTATE to UNKEYED (R146). -/
def Obligations.OnlyResetReturnsToUnkeyed : Prop :=
  ∀ s t : State, step s = .next t → t.kstate = .unkeyed →
    s.kstate = .unkeyed ∨ ∃ rest, s.inputs = .rst false :: rest

/-- No bus transaction shows CIPHER_KEY or TEMP_KEY (R259, R24, R25): with other keys in their place a step that performs one
answers the same and ends in the same state but for those keys. -/
def Obligations.NoBusTransactionShowsTheKeys : Prop :=
  ∀ (s t : State) (k tk : Block) (x : BusTx) (rest : List Input), s.inputs = .bus x :: rest → step s = .next t →
    step { s with cipherKey := k, tempKey := tk } = .next { t with cipherKey := k, tempKey := tk }

/-- R248: DECRYPT and every ENCRYPT end with E_NOT_KEYED as their first check when KSTATE is not KEYED, and leave the keys,
IV_REG, FMT_USED and everything the host writes. -/
def Obligations.UnkeyedCommandsRaiseNotKeyed : Prop :=
  ∀ (s : State) (i : Instr), s.kstate ≠ .keyed → i.isIllegal = false → i ≠ .derive →
    ∃ t, exec i s = .next t ∧ CompletedErr .notKeyed t ∧ KeysSame s t ∧ t.ivReg = s.ivReg ∧ t.fmtUsed = s.fmtUsed ∧
      CommandFrame s t

/-! ### DECRYPT -/

/-- R155: DETECT gives FRAMED when there is a first byte and it is 1, otherwise LEGACY, and reads no other byte. -/
def Obligations.FirstByteAloneDecidesTheFormat : Prop :=
  ∀ C C' : Bytes,
    (detect C = .framed ↔ 1 ≤ C.length ∧ C[0]? = some 0x01) ∧ (detect C = .legacy ↔ ¬detect C = .framed) ∧
    (C[0]? = C'[0]? → detect C = detect C')

/-- DECRYPT of a Legacy payload (R157, R170, R171): the first check that fails gives the code; a payload that passes gives the
bytes before the first marker. FMT_USED becomes 0, and IV_REG, the keys and everything the host writes stay. -/
def Obligations.DecryptLegacyResult : Prop :=
  ∀ s : State, s.kstate = .keyed → s.len0 ≤ s.bufBytes → (s.memReadIn 0 s.len0)[0]? ≠ some 0x01 →
    ∃ t, exec .decrypt s = .next t ∧ t.fmtUsed = .legacy ∧ KeysSame s t ∧ t.ivReg = s.ivReg ∧ CommandFrame s t ∧
      (s.len0 % 16 ≠ 0 → CompletedErr .length t) ∧
      (s.len0 % 16 = 0 → findMarker (ecbD s.key (s.memReadIn 0 s.len0)) = none → CompletedErr .integrity t) ∧
      (∀ i, s.len0 % 16 = 0 → findMarker (ecbD s.key (s.memReadIn 0 s.len0)) = some i →
        (utf8OK ((ecbD s.key (s.memReadIn 0 s.len0)).take i) = false → CompletedErr .decoding t) ∧
        (utf8OK ((ecbD s.key (s.memReadIn 0 s.len0)).take i) = true →
          CompletedOk ((ecbD s.key (s.memReadIn 0 s.len0)).take i) t))

/-- DECRYPT's failures before any decryption: a payload longer than the buffer ends with E_LENGTH and leaves FMT_USED (R157, R160);
a Framed payload that breaks a frame check ends with E_MALFORMED and FMT_USED = 1 (R180, R181 checks 1 to 4). IV_REG, the keys
and everything the host writes stay (R182). `C` is the payload. -/
def Obligations.DecryptRejectsBadPayload : Prop :=
  ∀ (s : State) (C : Bytes) (e : ErrCode) (f : Format), s.kstate = .keyed → C = s.memReadIn 0 s.len0 →
    ((e = .length ∧ f = s.fmtUsed ∧ s.bufBytes < s.len0) ∨
      (e = .malformed ∧ f = .framed ∧ s.len0 ≤ s.bufBytes ∧ C[0]? = some 0x01 ∧
        (C.length < 9 ∨ 9 + beNat ((C.drop 1).take 4) + beNat ((C.drop 5).take 4) ≠ C.length ∨
          beNat ((C.drop 1).take 4) ≠ 16 ∨ beNat ((C.drop 5).take 4) % 16 ≠ 0))) →
    ∃ t, exec .decrypt s = .next t ∧ CompletedErr e t ∧ t.fmtUsed = f ∧ KeysSame s t ∧ t.ivReg = s.ivReg ∧
      CommandFrame s t

/-- DECRYPT of a Framed payload that passes the frame checks (R180, R182, R183): IV_REG takes bytes 9 to 24; an empty body, a
padding count out of range or a remainder that is not UTF-8 gives E_DECODING; else the output is the body's decryption less
the count its last byte says. `n` is the body's length. -/
def Obligations.DecryptFramedResult : Prop :=
  ∀ (s : State) (C : Bytes) (n : Nat), s.kstate = .keyed → s.len0 ≤ s.bufBytes → C = s.memReadIn 0 s.len0 →
    C[0]? = some 0x01 → C.length = 25 + n → n % 16 = 0 → beNat ((C.drop 1).take 4) = 16 →
    beNat ((C.drop 5).take 4) = n →
    ∃ t, exec .decrypt s = .next t ∧ t.fmtUsed = .framed ∧ blockBytes t.ivReg = (C.drop 9).take 16 ∧ KeysSame s t ∧
      CommandFrame s t ∧
      (n = 0 → CompletedErr .decoding t) ∧
      (∀ p, (cbcD s.key ((C.drop 9).take 16) (C.drop 25))[n - 1]? = some p → 0 < n →
        ((p.toNat = 0 ∨ n < p.toNat) → CompletedErr .decoding t) ∧
        (1 ≤ p.toNat → p.toNat ≤ n →
          (utf8OK ((cbcD s.key ((C.drop 9).take 16) (C.drop 25)).take (n - p.toNat)) = false →
            CompletedErr .decoding t) ∧
          (utf8OK ((cbcD s.key ((C.drop 9).take 16) (C.drop 25)).take (n - p.toNat)) = true →
            CompletedOk ((cbcD s.key ((C.drop 9).take 16) (C.drop 25)).take (n - p.toNat)) t)))

/-! ### ENCRYPT -/

/-- ENCRYPT.LEGACY and ENCRYPT.FRAMED with a plaintext that fails a check (R158): the first check that fails, in the order input
length, UTF-8, output length, gives the code; FMT_USED takes the format (R160); no request for a draw is made. -/
def Obligations.EncryptRejectsBadPlaintext : Prop :=
  ∀ (s : State) (i : Instr) (f : Format) (e : ErrCode), s.kstate = .keyed →
    ((i = .encryptLegacy ∧ f = .legacy) ∨ (i = .encryptFramed ∧ f = .framed)) →
    ((e = .length ∧ s.bufBytes < s.len0) ∨
      (e = .decoding ∧ s.len0 ≤ s.bufBytes ∧ utf8OK (s.memReadIn 0 s.len0) = false) ∨
      (e = .length ∧ s.len0 ≤ s.bufBytes ∧ utf8OK (s.memReadIn 0 s.len0) = true ∧ s.bufBytes < outLenOf f s.len0)) →
    ∃ t, exec i s = .next t ∧ CompletedErr e t ∧ t.fmtUsed = f ∧ KeysSame s t ∧ t.ivReg = s.ivReg ∧ CommandFrame s t

/-- ENCRYPT.LEGACY (R158, R172, R173): the output is the no-chaining encryption of the padded plaintext and marker, of
`16·((n + 13) div 16) + 16` bytes; FMT_USED becomes 0, and IV_REG, the keys and everything the host writes stay. -/
def Obligations.EncryptLegacyResult : Prop :=
  ∀ s : State, s.kstate = .keyed → utf8OK (s.memReadIn 0 s.len0) = true →
    16 * ((s.len0 + 13) / 16) + 16 ≤ s.bufBytes → s.bufBytes < 2 ^ 32 →
    ∃ t, exec .encryptLegacy s = .next t ∧ CompletedOk (ecbE s.key (pad (s.memReadIn 0 s.len0 ++ marker))) t ∧
      t.outLen.toNat = 16 * ((s.len0 + 13) / 16) + 16 ∧ t.fmtUsed = .legacy ∧ KeysSame s t ∧ t.ivReg = s.ivReg ∧
      CommandFrame s t

/-- ENCRYPT.FRAMED with a good plaintext and the draw present (R185, R186, R187): the output is the frame of the drawn IV and the
chained encryption of the padded plaintext, of `25 + 16·(n div 16 + 1)` bytes; IV_REG takes the draw, FMT_USED becomes 1,
trng_req falls (R130), and the keys and everything the host writes stay. -/
def Obligations.EncryptFramedResult : Prop :=
  ∀ s : State, s.kstate = .keyed → utf8OK (s.memReadIn 0 s.len0) = true → 25 + 16 * (s.len0 / 16 + 1) ≤ s.bufBytes →
    s.bufBytes < 2 ^ 32 → s.trngReq = true → s.trngValid = true →
    ∃ t, exec .encryptFramed s = .next t ∧
      CompletedOk ([0x01, 0x00, 0x00, 0x00, 0x10] ++ be32 (16 * (s.len0 / 16 + 1)) ++ blockBytes s.trngData ++
        cbcE s.key (blockBytes s.trngData) (pad (s.memReadIn 0 s.len0))) t ∧
      t.outLen.toNat = 25 + 16 * (s.len0 / 16 + 1) ∧ t.ivReg = s.trngData ∧ t.fmtUsed = .framed ∧ KeysSame s t ∧
      CommandFrame s t

/-- The TRNG handshake of ENCRYPT.FRAMED (R130): a command that has passed its checks raises trng_req and changes nothing else;
while trng_valid = 0 it waits and changes nothing, with no limit. -/
def Obligations.EncryptFramedRequestsAndWaits : Prop :=
  ∀ s : State, s.kstate = .keyed → utf8OK (s.memReadIn 0 s.len0) = true → 25 + 16 * (s.len0 / 16 + 1) ≤ s.bufBytes →
    (s.trngReq = false → exec .encryptFramed s = .next { s with trngReq := true }) ∧
    (s.trngReq = true → s.trngValid = false → exec .encryptFramed s = .next s)

/-- Only a Framed ENCRYPT that has passed all its checks asks for a draw (R129, R260). -/
def Obligations.OnlyCheckedFramedEncryptAsksForADraw : Prop :=
  ∀ (s t : State) (i : Instr), exec i s = .next t → s.trngReq = false → t.trngReq = true →
    i = .encryptFramed ∧ s.kstate = .keyed ∧ s.len0 ≤ s.bufBytes ∧ utf8OK (s.memReadIn 0 s.len0) = true ∧
      25 + 16 * (s.len0 / 16 + 1) ≤ s.bufBytes

/-- R159, R247: ENCRYPT.UNSUPPORTED fmt=2 to fmt=15 in KSTATE = KEYED ends with E_UNSUPPORTED, and FMT_USED, the keys, IV_REG
and everything the host writes stay; DECRYPT never ends with it. -/
def Obligations.UnsupportedFormatsRaiseUnsupported : Prop :=
  ∀ s : State, s.kstate = .keyed →
    (∀ i ∈ [Instr.encryptUnsupportedFmt2, .encryptUnsupportedFmt3, .encryptUnsupportedFmt4, .encryptUnsupportedFmt5,
        .encryptUnsupportedFmt6, .encryptUnsupportedFmt7, .encryptUnsupportedFmt8, .encryptUnsupportedFmt9,
        .encryptUnsupportedFmt10, .encryptUnsupportedFmt11, .encryptUnsupportedFmt12, .encryptUnsupportedFmt13,
        .encryptUnsupportedFmt14, .encryptUnsupportedFmt15],
      ∃ t, exec i s = .next t ∧ CompletedErr .unsupported t ∧ KeysSame s t ∧ t.ivReg = s.ivReg ∧ t.fmtUsed = s.fmtUsed ∧
        CommandFrame s t) ∧
    (∀ t, exec .decrypt s = .next t → t.err ≠ .unsupported)

/-- R154, R250: an illegal word completes with E_ILLEGAL: ERR, DONE and OUT_LEN change, and no other field. -/
def Obligations.IllegalWordCompletesAtOnce : Prop :=
  ∀ (s : State) (op fmt : BitVec 4) (rsvd : BitVec 24),
    exec (.illegal op fmt rsvd) s = .next { s with err := .illegal, outLen := 0, done := true }

/-! ### Facts about all commands -/

/-- Every command but a Framed ENCRYPT completes in one turn of the engine, and a Framed ENCRYPT in at most two once the TRNG
holds trng_valid at 1. R285 says that the number of steps is finite and that a model may take one; the bounds of one and of two
turns are the model's (DEDUCED, assumption log 3), and so is the engine's turn at an empty list of moves (DESIGN CHOICE, logs 2
and 11). -/
def Obligations.CommandsComplete : Prop :=
  ∀ (s : State) (c : Instr), s.rstN = true → s.seq = .busy c → c.isIllegal = false → s.inputs = [] →
    (c ≠ .encryptFramed → ∃ t, step s = .next t ∧ t.seq = .idle ∧ t.done = true) ∧
    (c = .encryptFramed → s.trngValid = true →
      ∃ t u, step s = .next t ∧ step t = .next u ∧ u.seq = .idle ∧ u.done = true)

/-- R161: DECRYPT and ENCRYPT read IN_LEN1 for nothing. -/
def Obligations.SecondLengthIsIgnored : Prop :=
  ∀ (s t : State) (w : Word) (i : Instr), i ≠ .derive → exec i s = .next t →
    exec i { s with inLen1 := w } = .next { t with inLen1 := w }

/-- R162: DECRYPT and ENCRYPT never write KSTATE or CIPHER_KEY, and their results depend only on KSTATE, CIPHER_KEY, IN_LEN0,
IN_BUF[0..<IN_LEN0] and, for ENCRYPT.FRAMED, the draw (with BUF_BYTES one): code, OUT_LEN, output, completion. -/
def Obligations.CallsAreIndependent : Prop :=
  (∀ (s t : State) (i : Instr), i ≠ .derive → exec i s = .next t → t.kstate = s.kstate ∧ t.cipherKey = s.cipherKey) ∧
  ∀ (s s' t t' : State) (i : Instr), i.isIllegal = false → i ≠ .derive → s'.bufBytes = s.bufBytes →
    s'.kstate = s.kstate → s'.cipherKey = s.cipherKey → s'.inLen0 = s.inLen0 →
    (∀ j, j < s.len0 → s'.inByte j = s.inByte j) →
    (i = .encryptFramed → s.trngReq = true ∧ s'.trngReq = true ∧ s.trngValid = true ∧ s'.trngValid = true ∧
      s'.trngData = s.trngData) →
    exec i s = .next t → exec i s' = .next t' →
    t'.err = t.err ∧ t'.outLen = t.outLen ∧ t'.seq = t.seq ∧ t'.done = t.done ∧ ∀ j, t'.outByte j = t.outByte j

/-- IV_REG is written only by a Framed operation (R26): a command that changes it is DECRYPT or ENCRYPT.FRAMED and leaves
FMT_USED = 1. -/
def Obligations.OnlyFramedOperationsWriteIvReg : Prop :=
  ∀ (s t : State) (i : Instr), exec i s = .next t → t.ivReg ≠ s.ivReg →
    (i = .decrypt ∨ i = .encryptFramed) ∧ t.fmtUsed = .framed

/-! ### Laws of the units -/

/-- R110: for every key `AES_E(k, ·)` is a bijection on 16-byte blocks, undone by `AES_D(k, ·)`, and both return a 16-byte
block. -/
def Obligations.CipherIsABijectionOnBlocks : Prop :=
  ∀ k : Bytes, k.length = 16 →
    Set.BijOn (aesE k) {b | b.length = 16} {b | b.length = 16} ∧
    ∀ b : Bytes, b.length = 16 → aesD k (aesE k b) = b ∧ (aesD k b).length = 16

/-- R116, the laws of the modes: length, inversion, equal blocks under ECB, the first CBC block with a zero IV, the empty
string. -/
def Obligations.CipherModeLaws : Prop :=
  ∀ k iv M : Bytes, k.length = 16 → iv.length = 16 → M.length % 16 = 0 →
    ((ecbE k M).length = M.length ∧ (ecbD k M).length = M.length ∧ (cbcE k iv M).length = M.length ∧
      (cbcD k iv M).length = M.length) ∧
    ecbD k (ecbE k M) = M ∧ cbcD k iv (cbcE k iv M) = M ∧
    (∀ i j, i < M.length / 16 → j < M.length / 16 → slice M (16 * i) (16 * i + 16) = slice M (16 * j) (16 * j + 16) →
      slice (ecbE k M) (16 * i) (16 * i + 16) = slice (ecbE k M) (16 * j) (16 * j + 16)) ∧
    (iv = rep 0 16 → slice (cbcE k iv M) 0 16 = slice (ecbE k M) 0 16) ∧
    (ecbE k [] = [] ∧ ecbD k [] = [] ∧ cbcE k iv [] = [] ∧ cbcD k iv [] = [])

/-- R120, the laws of PAD. -/
def Obligations.PaddingLaws : Prop :=
  ∀ M : Bytes,
    (1 ≤ padCount M.length ∧ padCount M.length ≤ 16) ∧
    (pad M).length = 16 * (M.length / 16 + 1) ∧ M.length < (pad M).length ∧
    (M.length % 16 = 0 → pad M = M ++ rep 0x10 16) ∧
    (pad M).getLast? = some (BitVec.ofNat 8 (padCount M.length)) ∧
    unpad (pad M) = some M ∧
    pad [] = rep 0x10 16

/-- R122: FIND_MARKER is the least index at which the marker stands, and NONE when it stands nowhere, as in every string of
fewer than 13 bytes. The marker is the 13 bytes of R11, written out. -/
def Obligations.MarkerSearchFindsTheFirst : Prop :=
  marker = [0x3A, 0x3A, 0x3A, 0x3A, 0x4D, 0x41, 0x47, 0x49, 0x43, 0x3A, 0x3A, 0x3A, 0x3A] ∧
  ∀ D : Bytes,
    (∀ i, findMarker D = some i ↔
      (i + 13 ≤ D.length ∧ (D.drop i).take 13 = marker) ∧ ∀ j, j < i → (D.drop j).take 13 ≠ marker) ∧
    (findMarker D = none ↔ ∀ i, (D.drop i).take 13 ≠ marker) ∧
    (D.length < 13 → findMarker D = none)

/-- R124: the validator splits its string: a string is UTF-8 exactly when it is empty or one of the table's sequences is
followed by UTF-8. The sequences are written out from the table's rows. -/
def Obligations.Utf8SplitsByTheTable : Prop :=
  ∀ B : Bytes, utf8OK B = true ↔
    B = [] ∨
    (∃ b1 R, B = b1 :: R ∧ b1.toNat ≤ 0x7F ∧ utf8OK R = true) ∨
    (∃ b1 b2 R, B = b1 :: b2 :: R ∧ (0xC2 ≤ b1.toNat ∧ b1.toNat ≤ 0xDF) ∧ (0x80 ≤ b2.toNat ∧ b2.toNat ≤ 0xBF) ∧
      utf8OK R = true) ∨
    (∃ b1 b2 b3 R, B = b1 :: b2 :: b3 :: R ∧ (0x80 ≤ b3.toNat ∧ b3.toNat ≤ 0xBF) ∧
      ((b1.toNat = 0xE0 ∧ 0xA0 ≤ b2.toNat ∧ b2.toNat ≤ 0xBF) ∨
        (0xE1 ≤ b1.toNat ∧ b1.toNat ≤ 0xEC ∧ 0x80 ≤ b2.toNat ∧ b2.toNat ≤ 0xBF) ∨
        (b1.toNat = 0xED ∧ 0x80 ≤ b2.toNat ∧ b2.toNat ≤ 0x9F) ∨
        (0xEE ≤ b1.toNat ∧ b1.toNat ≤ 0xEF ∧ 0x80 ≤ b2.toNat ∧ b2.toNat ≤ 0xBF)) ∧ utf8OK R = true) ∨
    (∃ b1 b2 b3 b4 R, B = b1 :: b2 :: b3 :: b4 :: R ∧ (0x80 ≤ b3.toNat ∧ b3.toNat ≤ 0xBF) ∧
      (0x80 ≤ b4.toNat ∧ b4.toNat ≤ 0xBF) ∧
      ((b1.toNat = 0xF0 ∧ 0x90 ≤ b2.toNat ∧ b2.toNat ≤ 0xBF) ∨
        (0xF1 ≤ b1.toNat ∧ b1.toNat ≤ 0xF3 ∧ 0x80 ≤ b2.toNat ∧ b2.toNat ≤ 0xBF) ∨
        (b1.toNat = 0xF4 ∧ 0x80 ≤ b2.toNat ∧ b2.toNat ≤ 0x8F)) ∧ utf8OK R = true)

/-- A frame built from a 16-byte IV and whole blocks has 25 bytes more than its body, is detected as Framed and parses back to
both (R126, R127, R181). -/
def Obligations.BuiltFrameParsesBack : Prop :=
  ∀ iv body : Bytes, iv.length = 16 → body.length % 16 = 0 → body.length < 2 ^ 32 →
    (frame iv body).length = 25 + body.length ∧ detect (frame iv body) = .framed ∧
    parseFrame (frame iv body) = some (iv, body)

/-! ### Round trips -/

/-- R188: whatever the draw, the output of a completed ENCRYPT.FRAMED, given back to DECRYPT under the same key, returns exactly
the plaintext, with ERR = 0, FMT_USED = 1 and IV_REG the draw. `s` is the state in which the ENCRYPT completes to `t`, `u` any
state with that key and that output as its payload. -/
def Obligations.FramedRoundTrip : Prop :=
  ∀ s t u : State, s.kstate = .keyed → s.bufBytes < 2 ^ 32 → exec .encryptFramed s = .next t → s.trngReq = true →
    s.trngValid = true → t.err = .ok → u.kstate = .keyed → u.cipherKey = s.cipherKey → u.bufBytes = s.bufBytes →
    u.inLen0 = t.outLen → (∀ i, i < t.outLen.toNat → some (u.inByte i) = t.outByte i) →
    ∃ v, exec .decrypt u = .next v ∧ CompletedOk (s.memReadIn 0 s.len0) v ∧ v.fmtUsed = .framed ∧ v.ivReg = s.trngData

/-- R174: the output `C` of a completed ENCRYPT.LEGACY of `M`, given back to DECRYPT under the same key, returns exactly `M` if
and only if its first byte is not 1 and no marker starts before the appended one. When the first byte is not 1 and a marker
does start earlier, DECRYPT returns with ERR = 0 the proper prefix before it; when the first byte is 1, it takes the Framed
arm. -/
def Obligations.LegacyRoundTrip : Prop :=
  ∀ (s t u : State) (M : Bytes), s.kstate = .keyed → s.bufBytes < 2 ^ 32 → exec .encryptLegacy s = .next t →
    t.err = .ok → M = s.memReadIn 0 s.len0 → u.kstate = .keyed → u.cipherKey = s.cipherKey → u.bufBytes = s.bufBytes →
    u.inLen0 = t.outLen → (∀ i, i < t.outLen.toNat → some (u.inByte i) = t.outByte i) →
    ∃ v, exec .decrypt u = .next v ∧
      (CompletedOk M v ↔ t.outByte 0 ≠ some 0x01 ∧ findMarker (pad (M ++ marker)) = some M.length) ∧
      (t.outByte 0 ≠ some 0x01 → findMarker (pad (M ++ marker)) ≠ some M.length →
        ∃ i, i < M.length ∧ findMarker (pad (M ++ marker)) = some i ∧ CompletedOk (M.take i) v) ∧
      (t.outByte 0 = some 0x01 → v.fmtUsed = .framed)

/-! ### Reset and the invariant -/

/-- R40, R270, R272: driving rst_n low from any state, a running command included, puts every element at its reset value: no
command, no key, zero registers, no defined byte in either buffer (the form of an unspecified byte is the model's,
assumption logs 6 and 7), no interrupt and no TRNG request; BUF_BYTES stays, and the host's queue goes on. -/
def Obligations.ResetPutsEveryElementAtItsResetValue : Prop :=
  ∀ (s : State) (rest : List Input), s.inputs = .rst false :: rest →
    ∃ t, step s = .next t ∧ t.seq = .idle ∧ t.kstate = .unkeyed ∧ t.cipherKey = 0 ∧ t.tempKey = 0 ∧ t.ivReg = 0 ∧
      t.readReg .id = 0x4A550001 ∧ t.ctrlWord = 0 ∧ t.statusWord = 0 ∧ t.inLen0 = 0 ∧ t.inLen1 = 0 ∧ t.outLen = 0 ∧
      t.bufBytes = s.bufBytes ∧ t.readReg .bufSize = BitVec.ofNat 32 s.bufBytes ∧ t.readReg .iv0 = 0 ∧
      t.readReg .iv1 = 0 ∧ t.readReg .iv2 = 0 ∧ t.readReg .iv3 = 0 ∧
      (∀ i, Memory.read t.inBuf i = none) ∧ (∀ i, t.outByte i = none) ∧ t.irq = false ∧ t.trngReq = false ∧
      t.rstN = false ∧ t.inputs = rest

/-- R40, R271 for `State.reset`: what the registers read and the outputs show right after reset. (BUF_BYTES is the parameter;
that it is 4096 there is the model's choice, assumption log 8, and is not stated.) -/
def Obligations.ResetStateShowsResetValues : Prop :=
  State.reset.readReg .id = 0x4A550001 ∧ State.reset.readReg .ctrl = 0 ∧ State.reset.readReg .cmd = 0 ∧
  State.reset.readReg .status = 0 ∧ State.reset.readReg .inLen0 = 0 ∧ State.reset.readReg .inLen1 = 0 ∧
  State.reset.readReg .outLen = 0 ∧ State.reset.readReg .bufSize = BitVec.ofNat 32 State.reset.bufBytes ∧
  State.reset.readReg .iv0 = 0 ∧ State.reset.readReg .iv1 = 0 ∧ State.reset.readReg .iv2 = 0 ∧
  State.reset.readReg .iv3 = 0 ∧ State.reset.seq = .idle ∧ State.reset.kstate = .unkeyed ∧
  State.reset.cipherKey = 0 ∧ State.reset.tempKey = 0 ∧ State.reset.irq = false ∧ State.reset.trngReq = false

/-- The reset line and the moves of a state in reset. While rst_n = 0 every element of R40 of a sound state shows its reset value
(R270), and it stays so whatever the engine's turns and the TRNG do: a draw supplied then is ignored (R272). A bus transaction,
alone or with a turn of the engine, which the fabric must not issue, has no transition (U13; the refusal is the model's form,
assumption log 10). The release of reset, rst_n driven high, changes that line alone, so the state after it is the reset state
(R271); in or out of reset a move of the TRNG changes its own two lines alone. -/
def Obligations.HeldInReset : Prop :=
  (∀ (s : State) (rest : List Input), s.Inv → s.rstN = false →
    (s.seq = .idle ∧ s.kstate = .unkeyed ∧ s.cipherKey = 0 ∧ s.tempKey = 0 ∧ s.ivReg = 0 ∧ s.ctrlWord = 0 ∧
      s.statusWord = 0 ∧ s.inLen0 = 0 ∧ s.inLen1 = 0 ∧ s.outLen = 0 ∧ (∀ i, Memory.read s.inBuf i = none) ∧
      (∀ i, s.outByte i = none) ∧ s.irq = false ∧ s.trngReq = false) ∧
    (s.inputs = [] → step s = .next s) ∧
    (s.inputs = .engine :: rest → step s = .next { s with inputs := rest }) ∧
    (∀ x, s.inputs = .bus x :: rest → step s = .refused .busDuringReset) ∧
    (∀ x, s.inputs = .engineAnd x :: rest → step s = .refused .busDuringReset)) ∧
  ∀ (s : State) (rest : List Input),
    (s.inputs = .rst true :: rest → step s = .next { s with inputs := rest, rstN := true }) ∧
    (∀ v d, s.inputs = .trng v d :: rest → step s = .next { s with inputs := rest, trngValid := v, trngData := d })

/-- The invariant holds at reset. -/
def Obligations.InvariantHoldsAtReset : Prop :=
  State.reset.Inv

/-- Every step keeps the invariant: the buffers canonical, within BUF_BYTES and defined below OUT_LEN (R33, R36, R73), TEMP_KEY
zero (R25) and CIPHER_KEY zero while not KEYED (R24), SEQ BUSY only with a legal class and no result shown (R75, R150), a TRNG
request only during ENCRYPT.FRAMED (R260), and reset held (R270). -/
def Obligations.StepKeepsInvariant : Prop :=
  ∀ s t : State, s.Inv → step s = .next t → t.Inv

/-- From a sound state a step neither faults nor is refused, as long as the fabric issues no transaction in reset (R111,
R270). -/
def Obligations.SoundStatesStepSafely : Prop :=
  ∀ s : State, s.Inv → s.FabricOk → Safe (step s)
end

