-- ==== Sys2Proof/Laws/Bytes.lean ====
section
/-! SUPPORT. The laws of byte strings: slices, big-endian numbers, the lanes of a word and the bytes of a 128-bit register. -/

namespace Sys2Proof.Machine

/-- The length of a slice within bounds. -/
theorem slice_length {B : Bytes} {i j : Nat} (h : j ≤ B.length) : (slice B i j).length = j - i := by
  simp [slice, Nat.min_eq_left h]

/-- A slice is never longer than its string. -/
theorem slice_length_le (B : Bytes) (i j : Nat) : (slice B i j).length ≤ B.length := by
  simp [slice]

/-- The byte at index `k` of a slice. -/
theorem slice_getElem? (B : Bytes) {i j k : Nat} (h : i + k < j) : (slice B i j)[k]? = B[i + k]? := by
  simp [slice, h]

/-- The slice that starts after a prefix. -/
theorem slice_append (A B : Bytes) (n : Nat) : slice (A ++ B) A.length (A.length + n) = B.take n := by
  simp [slice, List.take_append]

/-- The slice that is a prefix. -/
theorem slice_zero (B : Bytes) (j : Nat) : slice B 0 j = B.take j := by
  simp [slice]

/-- XOR of two strings of one length has that length. -/
theorem xorBytes_length {A B : Bytes} (h : A.length = B.length) : (xorBytes A B).length = A.length := by
  simp [xorBytes, h]

/-- XOR twice with one string of at least the length gives the first string back. -/
theorem xorBytes_cancel {A B : Bytes} (h : A.length ≤ B.length) : xorBytes (xorBytes A B) B = A := by
  induction A generalizing B with
  | nil => simp [xorBytes]
  | cons a A ih =>
    cases B with
    | nil => simp at h
    | cons b B =>
      have := ih (B := B) (by simpa using h)
      simp only [xorBytes, List.zipWith_cons_cons] at this ⊢
      rw [this, BitVec.xor_assoc, BitVec.xor_self, BitVec.xor_zero]

/-- XOR with zero bytes changes nothing. -/
theorem xorBytes_zero {A : Bytes} {n : Nat} (h : A.length ≤ n) : xorBytes A (rep 0 n) = A := by
  induction A generalizing n with
  | nil => simp [xorBytes]
  | cons a A ih =>
    cases n with
    | zero => simp at h
    | succ n =>
      have := ih (n := n) (by simpa using h)
      simp only [xorBytes, rep, List.replicate_succ, List.zipWith_cons_cons] at this ⊢
      rw [this]
      simp

/-- `be32` has 4 bytes. -/
@[simp] theorem be32_length (n : Nat) : (be32 n).length = 4 := rfl

/-- `BE32(be32(n)) = n` for `n < 2^32` (R15). -/
theorem beNat_be32 {n : Nat} (h : n < 2 ^ 32) : beNat (be32 n) = n := by
  simp only [beNat, be32, List.foldl_cons, List.foldl_nil, BitVec.toNat_ofNat]
  omega

/-- The lanes of the word built from four bytes are those bytes (R65). -/
theorem wordLane_wordOfLanes (b0 b1 b2 b3 : Byte) :
    wordLane (wordOfLanes b0 b1 b2 b3) 0 = b0 ∧ wordLane (wordOfLanes b0 b1 b2 b3) 1 = b1 ∧
    wordLane (wordOfLanes b0 b1 b2 b3) 2 = b2 ∧ wordLane (wordOfLanes b0 b1 b2 b3) 3 = b3 := by
  have lane (j i : Nat) (hi : i < 8) : (wordLane (wordOfLanes b0 b1 b2 b3) j).getLsbD i =
      (b3 ++ b2 ++ b1 ++ b0).getLsbD (8 * j + i) := by
    simp only [wordLane, wordOfLanes, BitVec.getLsbD_extractLsb', hi, decide_true, Bool.true_and]
  refine ⟨?_, ?_, ?_, ?_⟩ <;> refine BitVec.eq_of_getLsbD_eq fun i hi => ?_ <;> rw [lane _ i hi]
  · rw [BitVec.getLsbD_append, if_pos (by omega), show 8 * 0 + i = i by omega]
  · rw [BitVec.getLsbD_append, if_neg (by omega), BitVec.getLsbD_append, if_pos (by omega),
      show 8 * 1 + i - 8 = i by omega]
  · rw [BitVec.getLsbD_append, if_neg (by omega), BitVec.getLsbD_append, if_neg (by omega),
      BitVec.getLsbD_append, if_pos (by omega), show 8 * 2 + i - 8 - 8 = i by omega]
  · rw [BitVec.getLsbD_append, if_neg (by omega), BitVec.getLsbD_append, if_neg (by omega),
      BitVec.getLsbD_append, if_neg (by omega), show 8 * 3 + i - 8 - 8 - 8 = i by omega]

/-- A word is built from its lanes (R65). -/
theorem wordOfLanes_wordLane (w : Word) :
    wordOfLanes (wordLane w 0) (wordLane w 1) (wordLane w 2) (wordLane w 3) = w := by
  apply BitVec.eq_of_getLsbD_eq
  intro i hi
  simp only [wordLane, wordOfLanes, BitVec.getLsbD_append, BitVec.getLsbD_extractLsb']
  by_cases h1 : i < 8
  · simp [h1]
  · by_cases h2 : i - 8 < 8
    · simp [h1, h2, show 8 + (i - 8) = i by omega]
    · by_cases h3 : i - 8 - 8 < 8
      · simp [h1, h2, h3, show 16 + (i - 8 - 8) = i by omega]
      · simp [h1, h2, h3, show i - 8 - 8 - 8 < 8 by omega, show 24 + (i - 8 - 8 - 8) = i by omega]

/-- A 128-bit register has 16 bytes (R24, R26). -/
@[simp] theorem blockBytes_length (b : Block) : (blockBytes b).length = 16 := by
  simp [blockBytes]

/-- The number of a byte string is below the power of 256 of its length. -/
theorem leNat_lt (B : Bytes) : leNat B < 256 ^ B.length := by
  induction B with
  | nil => simp [leNat]
  | cons b B ih =>
    have hb := b.isLt
    simp only [leNat, List.length_cons, Nat.pow_succ]
    omega

/-- Digit `i` of the number of a byte string is its byte `i`. -/
theorem leNat_digit (B : Bytes) (i : Nat) (h : i < B.length) : leNat B / 256 ^ i % 256 = (B[i]).toNat := by
  induction B generalizing i with
  | nil => simp at h
  | cons b B ih =>
    have hb := b.isLt
    cases i with
    | zero => simp only [leNat, Nat.pow_zero, Nat.div_one, List.getElem_cons_zero]; omega
    | succ i =>
      have hdiv : leNat (b :: B) / 256 ^ (i + 1) = leNat B / 256 ^ i := by
        rw [Nat.pow_succ, Nat.mul_comm, ← Nat.div_div_eq_div_mul]
        congr 1
        simp only [leNat]
        omega
      rw [hdiv, ih i (by simpa using h)]
      simp

/-- The bytes of the register that holds 16 bytes are those bytes (R24, R26). -/
theorem blockBytes_blockOfBytes {B : Bytes} (h : B.length = 16) : blockBytes (blockOfBytes B) = B := by
  apply List.ext_getElem
  · simp [h]
  · intro i h1 h2
    have hlt : leNat B < 2 ^ 128 := by
      have := leNat_lt B
      rw [h] at this
      exact Nat.lt_of_lt_of_eq this (by decide)
    apply BitVec.eq_of_toNat_eq
    simp only [blockBytes, blockByte, blockOfBytes, List.getElem_map, List.getElem_range, BitVec.extractLsb'_toNat,
      BitVec.toNat_ofNat, Nat.mod_eq_of_lt hlt, Nat.shiftRight_eq_div_pow]
    rw [← leNat_digit B i h2, show (256 : Nat) ^ i = 2 ^ (8 * i) by rw [Nat.pow_mul]]

/-- A block is known by its bytes. -/
theorem blockBytes_inj {a b : Block} (h : blockBytes a = blockBytes b) : a = b := by
  apply BitVec.eq_of_getLsbD_eq
  intro i hi
  have hb : blockByte a (i / 8) = blockByte b (i / 8) := by
    have := congrArg (·[i / 8]?) h
    simp only [blockBytes, List.getElem?_map] at this
    rw [List.getElem?_range (by omega)] at this
    simpa using this
  have := congrArg (·.getLsbD (i % 8)) hb
  simp only [blockByte, BitVec.getLsbD_extractLsb'] at this
  rw [show 8 * (i / 8) + i % 8 = i by omega] at this
  simpa [Nat.mod_lt] using this

/-- The register that holds the bytes of a block is that block. -/
@[simp] theorem blockOfBytes_blockBytes (b : Block) : blockOfBytes (blockBytes b) = b :=
  blockBytes_inj (blockBytes_blockOfBytes (blockBytes_length b))

end Sys2Proof.Machine
end

