-- ==== Sys2Proof/Laws/Aes.lean ====
section
/-! SUPPORT. The laws of AES-128: each step of a round is undone by its inverse, so `AES_D(k, AES_E(k, b)) = b`
(40_datapath_units.md R110, 49_crypto_reference.md R211), and both keep the 16 bytes of a block. -/

namespace Sys2Proof.Machine

/-! ### Field arithmetic -/

theorem and80_cases (a : Byte) : a &&& 0x80 = 0 ∨ a &&& 0x80 = 0x80 := by
  revert a
  decide +kernel

theorem xor_swap (p q c d : Byte) : (p ^^^ q) ^^^ (c ^^^ d) = (p ^^^ c) ^^^ (q ^^^ d) := by
  rw [BitVec.xor_assoc, BitVec.xor_assoc, ← BitVec.xor_assoc q, BitVec.xor_comm q c, BitVec.xor_assoc c]

/-- `xtime` is additive (R202). -/
theorem xtime_xor (a b : Byte) : xtime (a ^^^ b) = xtime a ^^^ xtime b := by
  have hs : (a ^^^ b) <<< 1 = (a <<< 1) ^^^ (b <<< 1) := BitVec.shiftLeft_xor_distrib a b 1
  have hx : (a ^^^ b) &&& 0x80 = (a &&& 0x80) ^^^ (b &&& 0x80) :=
    BitVec.eq_of_getElem_eq fun i hi => by
      simp only [BitVec.getElem_and, BitVec.getElem_xor, Bool.and_xor_distrib_right]
  simp only [xtime, hs, hx]
  rcases and80_cases a with ha | ha <;> rcases and80_cases b with hb | hb <;> rw [ha, hb, xor_swap] <;> rfl

theorem gfMulBits_xor (n : Nat) (a b m : Byte) :
    gfMulBits n (a ^^^ b) m = gfMulBits n a m ^^^ gfMulBits n b m := by
  induction n generalizing a b m with
  | zero => simp [gfMulBits]
  | succ n ih =>
    rw [gfMulBits, gfMulBits, gfMulBits, xtime_xor, ih, xor_swap]
    by_cases h : m &&& 1 = 0
    · rw [if_pos h, if_pos h, if_pos h, show (0 : Byte) ^^^ 0 = 0 from rfl]
    · rw [if_neg h, if_neg h, if_neg h]

/-- Multiplication is additive in its first factor (R202). -/
theorem gfMul_xor (a b m : Byte) : gfMul (a ^^^ b) m = gfMul a m ^^^ gfMul b m :=
  gfMulBits_xor 8 a b m

/-! ### MixColumns -/

/-- The matrices of R206 are inverse to each other: the 16 entries of their product, as multiplications of one byte. -/
theorem mix_matrix (a : Byte) :
    (gfMul (gfMul a 2) 14 ^^^ gfMul (gfMul a 1) 11 ^^^ gfMul (gfMul a 1) 13 ^^^ gfMul (gfMul a 3) 9 = a) ∧
    (gfMul (gfMul a 3) 14 ^^^ gfMul (gfMul a 2) 11 ^^^ gfMul (gfMul a 1) 13 ^^^ gfMul (gfMul a 1) 9 = 0) ∧
    (gfMul (gfMul a 1) 14 ^^^ gfMul (gfMul a 3) 11 ^^^ gfMul (gfMul a 2) 13 ^^^ gfMul (gfMul a 1) 9 = 0) ∧
    (gfMul (gfMul a 1) 14 ^^^ gfMul (gfMul a 1) 11 ^^^ gfMul (gfMul a 3) 13 ^^^ gfMul (gfMul a 2) 9 = 0) := by
  revert a
  decide +kernel

/-- Sixteen summands, four a row, regrouped by columns. -/
theorem xor_transpose (a0 a1 a2 a3 b0 b1 b2 b3 c0 c1 c2 c3 d0 d1 d2 d3 : Byte) :
    (a0 ^^^ a1 ^^^ a2 ^^^ a3) ^^^ (b0 ^^^ b1 ^^^ b2 ^^^ b3) ^^^ (c0 ^^^ c1 ^^^ c2 ^^^ c3) ^^^ (d0 ^^^ d1 ^^^ d2 ^^^ d3) =
      (a0 ^^^ b0 ^^^ c0 ^^^ d0) ^^^ (a1 ^^^ b1 ^^^ c1 ^^^ d1) ^^^ (a2 ^^^ b2 ^^^ c2 ^^^ d2) ^^^
        (a3 ^^^ b3 ^^^ c3 ^^^ d3) := by
  ac_rfl

/-- One column: the inverse matrix undoes the matrix (R206). -/
theorem invMix_mixColumn (a0 a1 a2 a3 : Byte) (s : Bytes) :
    invMixColumns (mixColumn 2 3 1 1 a0 a1 a2 a3 ++ s) = [a0, a1, a2, a3] ++ invMixColumns s := by
  have h0 := mix_matrix a0
  have h1 := mix_matrix a1
  have h2 := mix_matrix a2
  have h3 := mix_matrix a3
  have r1 (p q u v : Byte) : p ^^^ q ^^^ u ^^^ v = q ^^^ u ^^^ v ^^^ p := by ac_rfl
  have r2 (p q u v : Byte) : p ^^^ q ^^^ u ^^^ v = u ^^^ v ^^^ p ^^^ q := by ac_rfl
  have r3 (p q u v : Byte) : p ^^^ q ^^^ u ^^^ v = v ^^^ p ^^^ q ^^^ u := by ac_rfl
  simp only [mixColumn, invMixColumns, List.cons_append, List.nil_append, gfMul_xor]
  refine congrArg₂ List.cons ?_ (congrArg₂ List.cons ?_ (congrArg₂ List.cons ?_ (congrArg₂ List.cons ?_ rfl))) <;>
    rw [xor_transpose]
  · rw [h0.1, h1.2.1, h2.2.2.1, h3.2.2.2]
    simp
  · rw [(r1 _ _ _ _).trans h0.2.2.2, (r1 _ _ _ _).trans h1.1, (r1 _ _ _ _).trans h2.2.1, (r1 _ _ _ _).trans h3.2.2.1]
    simp
  · rw [(r2 _ _ _ _).trans h0.2.2.1, (r2 _ _ _ _).trans h1.2.2.2, (r2 _ _ _ _).trans h2.1, (r2 _ _ _ _).trans h3.2.1]
    simp
  · rw [(r3 _ _ _ _).trans h0.2.1, (r3 _ _ _ _).trans h1.2.2.1, (r3 _ _ _ _).trans h2.2.2.2, (r3 _ _ _ _).trans h3.1]
    simp

/-- InvMixColumns undoes MixColumns on whole columns (R206). -/
theorem invMixColumns_mixColumns (s : Bytes) (h : s.length % 4 = 0) : invMixColumns (mixColumns s) = s := by
  induction s using mixColumns.induct with
  | case1 a0 a1 a2 a3 s ih =>
    rw [mixColumns, invMix_mixColumn, ih (by simp only [List.length_cons] at h; omega)]
    rfl
  | case2 s hs =>
    match s with
    | [] => rfl
    | [_] => simp at h
    | [_, _] => simp at h
    | [_, _, _] => simp at h
    | a0 :: a1 :: a2 :: a3 :: s => exact absurd rfl (hs a0 a1 a2 a3 s)

theorem mixColumns_length (s : Bytes) (h : s.length % 4 = 0) : (mixColumns s).length = s.length := by
  induction s using mixColumns.induct with
  | case1 a0 a1 a2 a3 s ih =>
    have := ih (by simp only [List.length_cons] at h; omega)
    simp [mixColumns, mixColumn, this]
  | case2 s hs =>
    match s with
    | [] => rfl
    | [_] => simp at h
    | [_, _] => simp at h
    | [_, _, _] => simp at h
    | a0 :: a1 :: a2 :: a3 :: s => exact absurd rfl (hs a0 a1 a2 a3 s)

theorem invMixColumns_length (s : Bytes) (h : s.length % 4 = 0) : (invMixColumns s).length = s.length := by
  induction s using invMixColumns.induct with
  | case1 a0 a1 a2 a3 s ih =>
    have := ih (by simp only [List.length_cons] at h; omega)
    simp [invMixColumns, mixColumn, this]
  | case2 s hs =>
    match s with
    | [] => rfl
    | [_] => simp at h
    | [_, _] => simp at h
    | [_, _, _] => simp at h
    | a0 :: a1 :: a2 :: a3 :: s => exact absurd rfl (hs a0 a1 a2 a3 s)

/-! ### SubBytes and ShiftRows -/

/-- `INV_SBOX[SBOX[x]] = x` (R204). -/
theorem invSbox_sbox (x : Byte) : invSbox (sbox x) = x := by
  revert x
  decide +kernel

theorem invSubBytes_subBytes (s : Bytes) : invSubBytes (subBytes s) = s := by
  rw [invSubBytes, subBytes, List.map_map, show invSbox ∘ sbox = id from funext invSbox_sbox, List.map_id]

@[simp] theorem subBytes_length (s : Bytes) : (subBytes s).length = s.length := by simp [subBytes]
@[simp] theorem invSubBytes_length (s : Bytes) : (invSubBytes s).length = s.length := by simp [invSubBytes]
@[simp] theorem shiftRows_length (s : Bytes) : (shiftRows s).length = 16 := by simp [shiftRows]
@[simp] theorem invShiftRows_length (s : Bytes) : (invShiftRows s).length = 16 := by simp [invShiftRows]

/-- InvShiftRows undoes ShiftRows on a state of 16 bytes (R205). -/
theorem invShiftRows_shiftRows {s : Bytes} (h : s.length = 16) : invShiftRows (shiftRows s) = s := by
  have hget (j : Nat) (hj : j < 16) :
      (shiftRows s).getD j 0 = s.getD (j % 4 + 4 * ((j / 4 + j % 4) % 4)) 0 := by
    simp [shiftRows, List.getD_eq_getElem?_getD, hj]
  apply List.ext_getElem
  · simp [h]
  · intro i h1 h2
    have hi : i < 16 := by simpa using h1
    simp only [invShiftRows, List.getElem_map, List.getElem_range]
    rw [hget _ (by omega),
      show (i % 4 + 4 * ((i / 4 + 4 - i % 4) % 4)) % 4 +
          4 * (((i % 4 + 4 * ((i / 4 + 4 - i % 4) % 4)) / 4 + (i % 4 + 4 * ((i / 4 + 4 - i % 4) % 4)) % 4) % 4) = i by
        omega]
    simp [List.getD_eq_getElem?_getD, h2]

/-! ### Round keys -/

theorem nextKeyWord_length {w : List Bytes} (hw : ∀ x ∈ w, x.length = 4) (hn : 4 ≤ w.length) :
    (nextKeyWord w).length = 4 := by
  have hget (i : Nat) (hi : i < w.length) : (w.getD i []).length = 4 := by
    simpa [List.getD_eq_getElem?_getD, hi] using hw _ (List.getElem_mem hi)
  have h1 := hget (w.length - 1) (by omega)
  have h4 := hget (w.length - 4) (by omega)
  have hcore (rc : Byte) (x : Bytes) (hx : x.length = 4) : (keyCore rc x).length = 4 := by
    match x, hx with
    | [_, _, _, _], _ => rfl
  simp only [nextKeyWord]
  rw [xorBytes_length, h4]
  rw [h4]
  split
  · exact (hcore _ _ h1).symm
  · exact h1.symm

theorem extendKeyWords_spec (n : Nat) {w : List Bytes} (hw : ∀ x ∈ w, x.length = 4) (hn : 4 ≤ w.length) :
    (extendKeyWords n w).length = w.length + n ∧ ∀ x ∈ extendKeyWords n w, x.length = 4 := by
  induction n generalizing w with
  | zero => exact ⟨rfl, hw⟩
  | succ n ih =>
    have h := nextKeyWord_length hw hn
    obtain ⟨h1, h2⟩ := ih (w := w ++ [nextKeyWord w])
      (by
        intro x hx
        rcases List.mem_append.mp hx with hx | hx
        · exact hw x hx
        · rw [List.mem_singleton.mp hx, h])
      (by simp; omega)
    refine ⟨?_, h2⟩
    rw [extendKeyWords, h1]
    simp
    omega

/-- A key of 16 bytes expands to 44 words of 4 bytes (R208). -/
theorem keyWords_spec {k : Bytes} (h : k.length = 16) :
    (keyWords k).length = 44 ∧ ∀ x ∈ keyWords k, x.length = 4 :=
  extendKeyWords_spec 40
    (by
      intro x hx
      fin_cases hx <;> rw [slice_length (by omega)])
    (by simp)

/-- A round key has 16 bytes (R208). -/
theorem roundKey_length {k : Bytes} (h : k.length = 16) {j : Nat} (hj : j ≤ 10) :
    (roundKey (keyWords k) j).length = 16 := by
  obtain ⟨hl, hw⟩ := keyWords_spec h
  have hget (i : Nat) (hi : i < 44) : ((keyWords k).getD i []).length = 4 := by
    have hi' : i < (keyWords k).length := by omega
    simpa [List.getD_eq_getElem?_getD, hi'] using hw _ (List.getElem_mem hi')
  simp only [roundKey, List.length_append]
  rw [hget _ (by omega), hget _ (by omega), hget _ (by omega), hget _ (by omega)]

/-! ### Cipher and InvCipher -/

section
variable {k : Bytes} (hk : k.length = 16)
include hk

theorem addRoundKey_length {s : Bytes} (hs : s.length = 16) {j : Nat} (hj : j ≤ 10) :
    (addRoundKey s (roundKey (keyWords k) j)).length = 16 := by
  rw [addRoundKey, xorBytes_length (by rw [hs, roundKey_length hk hj]), hs]

theorem addRoundKey_twice {s : Bytes} (hs : s.length = 16) {j : Nat} (hj : j ≤ 10) :
    addRoundKey (addRoundKey s (roundKey (keyWords k) j)) (roundKey (keyWords k) j) = s :=
  xorBytes_cancel (by rw [hs, roundKey_length hk hj])

theorem encRound_length (s : Bytes) {j : Nat} (hj : j ≤ 10) : (encRound (keyWords k) s j).length = 16 :=
  addRoundKey_length hk (by rw [mixColumns_length _ (by simp)]; simp) hj

theorem decRound_length (s : Bytes) {j : Nat} (hj : j ≤ 10) : (decRound (keyWords k) s j).length = 16 := by
  have h := addRoundKey_length (s := invSubBytes (invShiftRows s)) hk (by simp) hj
  rw [decRound, invMixColumns_length _ (by rw [h]), h]

/-- A round of the InvCipher undoes the round of the Cipher with the same key, up to the SubBytes and ShiftRows of the round
before (R210, R211). -/
theorem decRound_encRound {s : Bytes} {j : Nat} (hj : j ≤ 10) :
    decRound (keyWords k) (shiftRows (subBytes (encRound (keyWords k) s j))) j = shiftRows (subBytes s) := by
  have hm : (mixColumns (shiftRows (subBytes s))).length = 16 := by
    rw [mixColumns_length _ (by simp)]
    simp
  rw [decRound, invShiftRows_shiftRows (by rw [subBytes_length, encRound_length hk s hj]), invSubBytes_subBytes, encRound,
    addRoundKey_twice hk hm hj, invMixColumns_mixColumns _ (by simp)]

/-- `AES_E(k, b)` is a block of 16 bytes (R110). -/
theorem aesE_length (b : Bytes) : (aesE k b).length = 16 :=
  addRoundKey_length hk (by simp) (by omega)

/-- `AES_D(k, b)` is a block of 16 bytes (R110). -/
theorem aesD_length (b : Bytes) : (aesD k b).length = 16 :=
  addRoundKey_length hk (by simp) (by omega)

/-- `AES_D(k, AES_E(k, b)) = b` for every key and block (R110, R211). -/
theorem aesD_aesE {b : Bytes} (hb : b.length = 16) : aesD k (aesE k b) = b := by
  simp only [aesD, aesE, List.foldl_cons, List.foldl_nil]
  rw [addRoundKey_twice hk (by simp) (by omega)]
  iterate 9 rw [decRound_encRound hk (by omega)]
  have h0 := addRoundKey_length hk hb (j := 0) (by omega)
  rw [invShiftRows_shiftRows (by rw [subBytes_length, h0]), invSubBytes_subBytes, addRoundKey_twice hk hb (by omega)]

end

end Sys2Proof.Machine
end

