-- ==== Sys2Proof/Laws/Memory.lean ====
section
/-! SUPPORT. The laws of a byte memory: reading what was written, leaving every other index alone, and keeping the canonical
form and the bound. -/

namespace Sys2Proof.Machine

/-- Reading the index just written gives the byte written. -/
@[simp] theorem Memory.read_write_same (m : Memory) (a : Nat) (b : Byte) :
    Memory.read (Memory.write m a b) a = some b := by
  induction m with
  | nil => simp [Memory.write, Memory.read]
  | cons c m ih =>
    obtain ⟨k, v⟩ := c
    by_cases h1 : a < k
    · simp [Memory.write, Memory.read, h1]
    · by_cases h2 : a = k
      · simp [Memory.write, Memory.read, h2]
      · simp [Memory.write, Memory.read, h1, h2, ih, Ne.symm h2]

/-- A write leaves every other index as it was. -/
theorem Memory.read_write_ne (m : Memory) {a i : Nat} (b : Byte) (h : i ≠ a) :
    Memory.read (Memory.write m a b) i = Memory.read m i := by
  induction m with
  | nil => simp [Memory.write, Memory.read, Ne.symm h]
  | cons c m ih =>
    obtain ⟨k, v⟩ := c
    by_cases h1 : a < k
    · simp [Memory.write, Memory.read, h1, Ne.symm h]
    · by_cases h2 : a = k
      · subst h2
        simp [Memory.write, Memory.read, Ne.symm h]
      · simp [Memory.write, Memory.read, h1, h2, ih]

/-- Reading after a write, at any index. -/
theorem Memory.read_write (m : Memory) (a i : Nat) (b : Byte) :
    Memory.read (Memory.write m a b) i = if i = a then some b else Memory.read m i := by
  split
  · next h => rw [h, Memory.read_write_same]
  · next h => exact Memory.read_write_ne m b h

/-- Everything a MemWrite does: the bytes of the range are the bytes stored, every other index is as it was (R16, R73). -/
theorem Memory.read_writeBytes (m : Memory) (a : Nat) (B : Bytes) (i : Nat) :
    Memory.read (Memory.writeBytes m a B) i =
      if a ≤ i ∧ i < a + B.length then B[i - a]? else Memory.read m i := by
  induction B generalizing m a with
  | nil =>
    have : ¬(a ≤ i ∧ i < a + ([] : Bytes).length) := by simp
    rw [if_neg this]
    rfl
  | cons b B ih =>
    rw [Memory.writeBytes, ih, Memory.read_write]
    by_cases h0 : i = a
    · subst h0
      simp
    · by_cases h1 : a + 1 ≤ i ∧ i < a + 1 + B.length
      · have h2 : a ≤ i ∧ i < a + (b :: B).length := by simp; omega
        have h3 : i - a = (i - (a + 1)) + 1 := by omega
        simp only [h1, h2, and_self, if_true, h3, List.getElem?_cons_succ]
      · have h2 : ¬(a ≤ i ∧ i < a + (b :: B).length) := by simp; omega
        simp only [h1, h2, h0, if_false]

/-- A MemWrite at 0 defines the index `i` of its range. -/
theorem Memory.read_writeBytes_zero (m : Memory) (B : Bytes) {i : Nat} (h : i < B.length) :
    Memory.read (Memory.writeBytes m 0 B) i = B[i]? := by
  rw [Memory.read_writeBytes]
  simp [h]

/-- What is listed after a write was listed before or is the byte written. -/
theorem Memory.mem_write {m : Memory} {a : Nat} {b : Byte} {c : Host.Cell} (h : c ∈ Memory.write m a b) :
    c ∈ m ∨ c = (a, b) := by
  induction m with
  | nil => exact .inr (by simpa [Memory.write] using h)
  | cons d m ih =>
    obtain ⟨k, v⟩ := d
    simp only [Memory.write] at h
    split at h
    · rcases List.mem_cons.mp h with h | h
      · exact .inr h
      · exact .inl h
    · split at h
      · rcases List.mem_cons.mp h with h | h
        · exact .inr h
        · exact .inl (List.mem_cons_of_mem _ h)
      · rcases List.mem_cons.mp h with h | h
        · exact .inl (h ▸ List.mem_cons_self)
        · rcases ih h with h | h
          · exact .inl (List.mem_cons_of_mem _ h)
          · exact .inr h

/-- A write keeps the canonical form. -/
theorem Memory.wf_write {m : Memory} (a : Nat) (b : Byte) (h : Memory.wf m = true) :
    Memory.wf (Memory.write m a b) = true := by
  simp only [Memory.wf, decide_eq_true_eq] at h ⊢
  induction m with
  | nil => simp [Memory.write]
  | cons c m ih =>
    obtain ⟨k, v⟩ := c
    obtain ⟨h1, h2⟩ := List.pairwise_cons.mp h
    simp only [Memory.write]
    split
    · next hlt =>
      refine List.pairwise_cons.mpr ⟨fun d hd => ?_, h⟩
      rcases List.mem_cons.mp hd with hd | hd
      · simpa [hd] using hlt
      · exact Nat.lt_trans hlt (h1 d hd)
    · split
      · next heq => exact List.pairwise_cons.mpr ⟨fun d hd => heq ▸ h1 d hd, h2⟩
      · next hlt hne =>
        refine List.pairwise_cons.mpr ⟨fun d hd => ?_, ih h2⟩
        rcases Memory.mem_write hd with hd | hd
        · exact h1 d hd
        · subst hd
          simp only
          omega

/-- A write below the bound keeps the bound. -/
theorem Memory.below_write {n : Nat} {m : Memory} {a : Nat} (b : Byte) (h : Memory.below n m = true) (ha : a < n) :
    Memory.below n (Memory.write m a b) = true := by
  simp only [Memory.below, List.all_eq_true, decide_eq_true_eq] at h ⊢
  intro c hc
  rcases Memory.mem_write hc with hc | hc
  · exact h c hc
  · simpa [hc] using ha

/-- A MemWrite keeps the canonical form. -/
theorem Memory.wf_writeBytes {m : Memory} (a : Nat) (B : Bytes) (h : Memory.wf m = true) :
    Memory.wf (Memory.writeBytes m a B) = true := by
  induction B generalizing m a with
  | nil => exact h
  | cons b B ih => exact ih (a + 1) (Memory.wf_write a b h)

/-- A MemWrite within the bound keeps the bound. -/
theorem Memory.below_writeBytes {n : Nat} {m : Memory} (a : Nat) (B : Bytes) (h : Memory.below n m = true)
    (ha : a + B.length ≤ n) : Memory.below n (Memory.writeBytes m a B) = true := by
  induction B generalizing m a with
  | nil => exact h
  | cons b B ih =>
    simp only [List.length_cons] at ha
    exact ih (a + 1) (Memory.below_write b h (by omega)) (by omega)

end Sys2Proof.Machine
end

