-- ==== Sys2Proof/Laws/State.lean ====
section
/-! SUPPORT. One lemma for each field of State after each named update of it, all true by definition and in the simp set, so
that no proof unfolds a record update; and the views of the state that an update does not change. -/

namespace Sys2Proof.Machine

variable (s : State)

/-! ### `State.accepted` -/

@[simp] theorem State.accepted_bufBytes (c : Instr) : (State.accepted c s).bufBytes = s.bufBytes := rfl
@[simp] theorem State.accepted_seq (c : Instr) : (State.accepted c s).seq = .busy c := rfl
@[simp] theorem State.accepted_kstate (c : Instr) : (State.accepted c s).kstate = s.kstate := rfl
@[simp] theorem State.accepted_cipherKey (c : Instr) : (State.accepted c s).cipherKey = s.cipherKey := rfl
@[simp] theorem State.accepted_tempKey (c : Instr) : (State.accepted c s).tempKey = s.tempKey := rfl
@[simp] theorem State.accepted_ivReg (c : Instr) : (State.accepted c s).ivReg = s.ivReg := rfl
@[simp] theorem State.accepted_ie (c : Instr) : (State.accepted c s).ie = s.ie := rfl
@[simp] theorem State.accepted_done (c : Instr) : (State.accepted c s).done = false := rfl
@[simp] theorem State.accepted_err (c : Instr) : (State.accepted c s).err = .ok := rfl
@[simp] theorem State.accepted_fmtUsed (c : Instr) : (State.accepted c s).fmtUsed = s.fmtUsed := rfl
@[simp] theorem State.accepted_inLen0 (c : Instr) : (State.accepted c s).inLen0 = s.inLen0 := rfl
@[simp] theorem State.accepted_inLen1 (c : Instr) : (State.accepted c s).inLen1 = s.inLen1 := rfl
@[simp] theorem State.accepted_outLen (c : Instr) : (State.accepted c s).outLen = 0 := rfl
@[simp] theorem State.accepted_inBuf (c : Instr) : (State.accepted c s).inBuf = s.inBuf := rfl
@[simp] theorem State.accepted_outBuf (c : Instr) : (State.accepted c s).outBuf = s.outBuf := rfl
@[simp] theorem State.accepted_trngReq (c : Instr) : (State.accepted c s).trngReq = s.trngReq := rfl
@[simp] theorem State.accepted_trngValid (c : Instr) : (State.accepted c s).trngValid = s.trngValid := rfl
@[simp] theorem State.accepted_trngData (c : Instr) : (State.accepted c s).trngData = s.trngData := rfl
@[simp] theorem State.accepted_rstN (c : Instr) : (State.accepted c s).rstN = s.rstN := rfl
@[simp] theorem State.accepted_busResult (c : Instr) : (State.accepted c s).busResult = s.busResult := rfl
@[simp] theorem State.accepted_inputs (c : Instr) : (State.accepted c s).inputs = s.inputs := rfl
@[simp] theorem State.accepted_resetEpoch (c : Instr) : (State.accepted c s).resetEpoch = s.resetEpoch := rfl
@[simp] theorem State.accepted_outDraws (c : Instr) : (State.accepted c s).outDraws = s.outDraws := rfl

/-! ### `State.finished` -/

@[simp] theorem State.finished_bufBytes (B : Bytes) : (State.finished B s).bufBytes = s.bufBytes := rfl
@[simp] theorem State.finished_seq (B : Bytes) : (State.finished B s).seq = .idle := rfl
@[simp] theorem State.finished_kstate (B : Bytes) : (State.finished B s).kstate = s.kstate := rfl
@[simp] theorem State.finished_cipherKey (B : Bytes) : (State.finished B s).cipherKey = s.cipherKey := rfl
@[simp] theorem State.finished_tempKey (B : Bytes) : (State.finished B s).tempKey = s.tempKey := rfl
@[simp] theorem State.finished_ivReg (B : Bytes) : (State.finished B s).ivReg = s.ivReg := rfl
@[simp] theorem State.finished_ie (B : Bytes) : (State.finished B s).ie = s.ie := rfl
@[simp] theorem State.finished_done (B : Bytes) : (State.finished B s).done = true := rfl
@[simp] theorem State.finished_err (B : Bytes) : (State.finished B s).err = .ok := rfl
@[simp] theorem State.finished_fmtUsed (B : Bytes) : (State.finished B s).fmtUsed = s.fmtUsed := rfl
@[simp] theorem State.finished_inLen0 (B : Bytes) : (State.finished B s).inLen0 = s.inLen0 := rfl
@[simp] theorem State.finished_inLen1 (B : Bytes) : (State.finished B s).inLen1 = s.inLen1 := rfl
@[simp] theorem State.finished_outLen (B : Bytes) : (State.finished B s).outLen = BitVec.ofNat 32 B.length := rfl
@[simp] theorem State.finished_inBuf (B : Bytes) : (State.finished B s).inBuf = s.inBuf := rfl
@[simp] theorem State.finished_outBuf (B : Bytes) : (State.finished B s).outBuf = Memory.writeBytes s.outBuf 0 B := rfl
@[simp] theorem State.finished_trngReq (B : Bytes) : (State.finished B s).trngReq = false := rfl
@[simp] theorem State.finished_trngValid (B : Bytes) : (State.finished B s).trngValid = s.trngValid := rfl
@[simp] theorem State.finished_trngData (B : Bytes) : (State.finished B s).trngData = s.trngData := rfl
@[simp] theorem State.finished_rstN (B : Bytes) : (State.finished B s).rstN = s.rstN := rfl
@[simp] theorem State.finished_busResult (B : Bytes) : (State.finished B s).busResult = s.busResult := rfl
@[simp] theorem State.finished_inputs (B : Bytes) : (State.finished B s).inputs = s.inputs := rfl
@[simp] theorem State.finished_resetEpoch (B : Bytes) : (State.finished B s).resetEpoch = s.resetEpoch := rfl
@[simp] theorem State.finished_outDraws (B : Bytes) : (State.finished B s).outDraws = s.outDraws := rfl

/-! ### `State.raised` -/

@[simp] theorem State.raised_bufBytes (e : ErrCode) : (State.raised e s).bufBytes = s.bufBytes := rfl
@[simp] theorem State.raised_seq (e : ErrCode) : (State.raised e s).seq = .idle := rfl
@[simp] theorem State.raised_kstate (e : ErrCode) : (State.raised e s).kstate = s.kstate := rfl
@[simp] theorem State.raised_cipherKey (e : ErrCode) : (State.raised e s).cipherKey = s.cipherKey := rfl
@[simp] theorem State.raised_tempKey (e : ErrCode) : (State.raised e s).tempKey = s.tempKey := rfl
@[simp] theorem State.raised_ivReg (e : ErrCode) : (State.raised e s).ivReg = s.ivReg := rfl
@[simp] theorem State.raised_ie (e : ErrCode) : (State.raised e s).ie = s.ie := rfl
@[simp] theorem State.raised_done (e : ErrCode) : (State.raised e s).done = true := rfl
@[simp] theorem State.raised_err (e : ErrCode) : (State.raised e s).err = e := rfl
@[simp] theorem State.raised_fmtUsed (e : ErrCode) : (State.raised e s).fmtUsed = s.fmtUsed := rfl
@[simp] theorem State.raised_inLen0 (e : ErrCode) : (State.raised e s).inLen0 = s.inLen0 := rfl
@[simp] theorem State.raised_inLen1 (e : ErrCode) : (State.raised e s).inLen1 = s.inLen1 := rfl
@[simp] theorem State.raised_outLen (e : ErrCode) : (State.raised e s).outLen = 0 := rfl
@[simp] theorem State.raised_inBuf (e : ErrCode) : (State.raised e s).inBuf = s.inBuf := rfl
@[simp] theorem State.raised_outBuf (e : ErrCode) : (State.raised e s).outBuf = s.outBuf := rfl
@[simp] theorem State.raised_trngReq (e : ErrCode) : (State.raised e s).trngReq = false := rfl
@[simp] theorem State.raised_trngValid (e : ErrCode) : (State.raised e s).trngValid = s.trngValid := rfl
@[simp] theorem State.raised_trngData (e : ErrCode) : (State.raised e s).trngData = s.trngData := rfl
@[simp] theorem State.raised_rstN (e : ErrCode) : (State.raised e s).rstN = s.rstN := rfl
@[simp] theorem State.raised_busResult (e : ErrCode) : (State.raised e s).busResult = s.busResult := rfl
@[simp] theorem State.raised_inputs (e : ErrCode) : (State.raised e s).inputs = s.inputs := rfl
@[simp] theorem State.raised_resetEpoch (e : ErrCode) : (State.raised e s).resetEpoch = s.resetEpoch := rfl
@[simp] theorem State.raised_outDraws (e : ErrCode) : (State.raised e s).outDraws = s.outDraws := rfl

/-! ### `State.illegalCompleted` -/

@[simp] theorem State.illegalCompleted_bufBytes : (State.illegalCompleted s).bufBytes = s.bufBytes := rfl
@[simp] theorem State.illegalCompleted_seq : (State.illegalCompleted s).seq = s.seq := rfl
@[simp] theorem State.illegalCompleted_kstate : (State.illegalCompleted s).kstate = s.kstate := rfl
@[simp] theorem State.illegalCompleted_cipherKey : (State.illegalCompleted s).cipherKey = s.cipherKey := rfl
@[simp] theorem State.illegalCompleted_tempKey : (State.illegalCompleted s).tempKey = s.tempKey := rfl
@[simp] theorem State.illegalCompleted_ivReg : (State.illegalCompleted s).ivReg = s.ivReg := rfl
@[simp] theorem State.illegalCompleted_ie : (State.illegalCompleted s).ie = s.ie := rfl
@[simp] theorem State.illegalCompleted_done : (State.illegalCompleted s).done = true := rfl
@[simp] theorem State.illegalCompleted_err : (State.illegalCompleted s).err = .illegal := rfl
@[simp] theorem State.illegalCompleted_fmtUsed : (State.illegalCompleted s).fmtUsed = s.fmtUsed := rfl
@[simp] theorem State.illegalCompleted_inLen0 : (State.illegalCompleted s).inLen0 = s.inLen0 := rfl
@[simp] theorem State.illegalCompleted_inLen1 : (State.illegalCompleted s).inLen1 = s.inLen1 := rfl
@[simp] theorem State.illegalCompleted_outLen : (State.illegalCompleted s).outLen = 0 := rfl
@[simp] theorem State.illegalCompleted_inBuf : (State.illegalCompleted s).inBuf = s.inBuf := rfl
@[simp] theorem State.illegalCompleted_outBuf : (State.illegalCompleted s).outBuf = s.outBuf := rfl
@[simp] theorem State.illegalCompleted_trngReq : (State.illegalCompleted s).trngReq = s.trngReq := rfl
@[simp] theorem State.illegalCompleted_trngValid : (State.illegalCompleted s).trngValid = s.trngValid := rfl
@[simp] theorem State.illegalCompleted_trngData : (State.illegalCompleted s).trngData = s.trngData := rfl
@[simp] theorem State.illegalCompleted_rstN : (State.illegalCompleted s).rstN = s.rstN := rfl
@[simp] theorem State.illegalCompleted_busResult : (State.illegalCompleted s).busResult = s.busResult := rfl
@[simp] theorem State.illegalCompleted_inputs : (State.illegalCompleted s).inputs = s.inputs := rfl
@[simp] theorem State.illegalCompleted_resetEpoch : (State.illegalCompleted s).resetEpoch = s.resetEpoch := rfl
@[simp] theorem State.illegalCompleted_outDraws : (State.illegalCompleted s).outDraws = s.outDraws := rfl

/-! ### `State.withTempKey` -/

@[simp] theorem State.withTempKey_bufBytes (k : Block) : (State.withTempKey k s).bufBytes = s.bufBytes := rfl
@[simp] theorem State.withTempKey_seq (k : Block) : (State.withTempKey k s).seq = s.seq := rfl
@[simp] theorem State.withTempKey_kstate (k : Block) : (State.withTempKey k s).kstate = s.kstate := rfl
@[simp] theorem State.withTempKey_cipherKey (k : Block) : (State.withTempKey k s).cipherKey = s.cipherKey := rfl
@[simp] theorem State.withTempKey_tempKey (k : Block) : (State.withTempKey k s).tempKey = k := rfl
@[simp] theorem State.withTempKey_ivReg (k : Block) : (State.withTempKey k s).ivReg = s.ivReg := rfl
@[simp] theorem State.withTempKey_ie (k : Block) : (State.withTempKey k s).ie = s.ie := rfl
@[simp] theorem State.withTempKey_done (k : Block) : (State.withTempKey k s).done = s.done := rfl
@[simp] theorem State.withTempKey_err (k : Block) : (State.withTempKey k s).err = s.err := rfl
@[simp] theorem State.withTempKey_fmtUsed (k : Block) : (State.withTempKey k s).fmtUsed = s.fmtUsed := rfl
@[simp] theorem State.withTempKey_inLen0 (k : Block) : (State.withTempKey k s).inLen0 = s.inLen0 := rfl
@[simp] theorem State.withTempKey_inLen1 (k : Block) : (State.withTempKey k s).inLen1 = s.inLen1 := rfl
@[simp] theorem State.withTempKey_outLen (k : Block) : (State.withTempKey k s).outLen = s.outLen := rfl
@[simp] theorem State.withTempKey_inBuf (k : Block) : (State.withTempKey k s).inBuf = s.inBuf := rfl
@[simp] theorem State.withTempKey_outBuf (k : Block) : (State.withTempKey k s).outBuf = s.outBuf := rfl
@[simp] theorem State.withTempKey_trngReq (k : Block) : (State.withTempKey k s).trngReq = s.trngReq := rfl
@[simp] theorem State.withTempKey_trngValid (k : Block) : (State.withTempKey k s).trngValid = s.trngValid := rfl
@[simp] theorem State.withTempKey_trngData (k : Block) : (State.withTempKey k s).trngData = s.trngData := rfl
@[simp] theorem State.withTempKey_rstN (k : Block) : (State.withTempKey k s).rstN = s.rstN := rfl
@[simp] theorem State.withTempKey_busResult (k : Block) : (State.withTempKey k s).busResult = s.busResult := rfl
@[simp] theorem State.withTempKey_inputs (k : Block) : (State.withTempKey k s).inputs = s.inputs := rfl
@[simp] theorem State.withTempKey_resetEpoch (k : Block) : (State.withTempKey k s).resetEpoch = s.resetEpoch := rfl
@[simp] theorem State.withTempKey_outDraws (k : Block) : (State.withTempKey k s).outDraws = s.outDraws := rfl

/-! ### `State.withIv` -/

@[simp] theorem State.withIv_bufBytes (k : Block) : (State.withIv k s).bufBytes = s.bufBytes := rfl
@[simp] theorem State.withIv_seq (k : Block) : (State.withIv k s).seq = s.seq := rfl
@[simp] theorem State.withIv_kstate (k : Block) : (State.withIv k s).kstate = s.kstate := rfl
@[simp] theorem State.withIv_cipherKey (k : Block) : (State.withIv k s).cipherKey = s.cipherKey := rfl
@[simp] theorem State.withIv_tempKey (k : Block) : (State.withIv k s).tempKey = s.tempKey := rfl
@[simp] theorem State.withIv_ivReg (k : Block) : (State.withIv k s).ivReg = k := rfl
@[simp] theorem State.withIv_ie (k : Block) : (State.withIv k s).ie = s.ie := rfl
@[simp] theorem State.withIv_done (k : Block) : (State.withIv k s).done = s.done := rfl
@[simp] theorem State.withIv_err (k : Block) : (State.withIv k s).err = s.err := rfl
@[simp] theorem State.withIv_fmtUsed (k : Block) : (State.withIv k s).fmtUsed = s.fmtUsed := rfl
@[simp] theorem State.withIv_inLen0 (k : Block) : (State.withIv k s).inLen0 = s.inLen0 := rfl
@[simp] theorem State.withIv_inLen1 (k : Block) : (State.withIv k s).inLen1 = s.inLen1 := rfl
@[simp] theorem State.withIv_outLen (k : Block) : (State.withIv k s).outLen = s.outLen := rfl
@[simp] theorem State.withIv_inBuf (k : Block) : (State.withIv k s).inBuf = s.inBuf := rfl
@[simp] theorem State.withIv_outBuf (k : Block) : (State.withIv k s).outBuf = s.outBuf := rfl
@[simp] theorem State.withIv_trngReq (k : Block) : (State.withIv k s).trngReq = s.trngReq := rfl
@[simp] theorem State.withIv_trngValid (k : Block) : (State.withIv k s).trngValid = s.trngValid := rfl
@[simp] theorem State.withIv_trngData (k : Block) : (State.withIv k s).trngData = s.trngData := rfl
@[simp] theorem State.withIv_rstN (k : Block) : (State.withIv k s).rstN = s.rstN := rfl
@[simp] theorem State.withIv_busResult (k : Block) : (State.withIv k s).busResult = s.busResult := rfl
@[simp] theorem State.withIv_inputs (k : Block) : (State.withIv k s).inputs = s.inputs := rfl
@[simp] theorem State.withIv_resetEpoch (k : Block) : (State.withIv k s).resetEpoch = s.resetEpoch := rfl
@[simp] theorem State.withIv_outDraws (k : Block) : (State.withIv k s).outDraws = s.outDraws := rfl

/-! ### `State.withFmtUsed` -/

@[simp] theorem State.withFmtUsed_bufBytes (f : Format) : (State.withFmtUsed f s).bufBytes = s.bufBytes := rfl
@[simp] theorem State.withFmtUsed_seq (f : Format) : (State.withFmtUsed f s).seq = s.seq := rfl
@[simp] theorem State.withFmtUsed_kstate (f : Format) : (State.withFmtUsed f s).kstate = s.kstate := rfl
@[simp] theorem State.withFmtUsed_cipherKey (f : Format) : (State.withFmtUsed f s).cipherKey = s.cipherKey := rfl
@[simp] theorem State.withFmtUsed_tempKey (f : Format) : (State.withFmtUsed f s).tempKey = s.tempKey := rfl
@[simp] theorem State.withFmtUsed_ivReg (f : Format) : (State.withFmtUsed f s).ivReg = s.ivReg := rfl
@[simp] theorem State.withFmtUsed_ie (f : Format) : (State.withFmtUsed f s).ie = s.ie := rfl
@[simp] theorem State.withFmtUsed_done (f : Format) : (State.withFmtUsed f s).done = s.done := rfl
@[simp] theorem State.withFmtUsed_err (f : Format) : (State.withFmtUsed f s).err = s.err := rfl
@[simp] theorem State.withFmtUsed_fmtUsed (f : Format) : (State.withFmtUsed f s).fmtUsed = f := rfl
@[simp] theorem State.withFmtUsed_inLen0 (f : Format) : (State.withFmtUsed f s).inLen0 = s.inLen0 := rfl
@[simp] theorem State.withFmtUsed_inLen1 (f : Format) : (State.withFmtUsed f s).inLen1 = s.inLen1 := rfl
@[simp] theorem State.withFmtUsed_outLen (f : Format) : (State.withFmtUsed f s).outLen = s.outLen := rfl
@[simp] theorem State.withFmtUsed_inBuf (f : Format) : (State.withFmtUsed f s).inBuf = s.inBuf := rfl
@[simp] theorem State.withFmtUsed_outBuf (f : Format) : (State.withFmtUsed f s).outBuf = s.outBuf := rfl
@[simp] theorem State.withFmtUsed_trngReq (f : Format) : (State.withFmtUsed f s).trngReq = s.trngReq := rfl
@[simp] theorem State.withFmtUsed_trngValid (f : Format) : (State.withFmtUsed f s).trngValid = s.trngValid := rfl
@[simp] theorem State.withFmtUsed_trngData (f : Format) : (State.withFmtUsed f s).trngData = s.trngData := rfl
@[simp] theorem State.withFmtUsed_rstN (f : Format) : (State.withFmtUsed f s).rstN = s.rstN := rfl
@[simp] theorem State.withFmtUsed_busResult (f : Format) : (State.withFmtUsed f s).busResult = s.busResult := rfl
@[simp] theorem State.withFmtUsed_inputs (f : Format) : (State.withFmtUsed f s).inputs = s.inputs := rfl
@[simp] theorem State.withFmtUsed_resetEpoch (f : Format) : (State.withFmtUsed f s).resetEpoch = s.resetEpoch := rfl
@[simp] theorem State.withFmtUsed_outDraws (f : Format) : (State.withFmtUsed f s).outDraws = s.outDraws := rfl

/-! ### `State.withKey` -/

@[simp] theorem State.withKey_bufBytes (k : Block) (ks : KState) : (State.withKey k ks s).bufBytes = s.bufBytes := rfl
@[simp] theorem State.withKey_seq (k : Block) (ks : KState) : (State.withKey k ks s).seq = s.seq := rfl
@[simp] theorem State.withKey_kstate (k : Block) (ks : KState) : (State.withKey k ks s).kstate = ks := rfl
@[simp] theorem State.withKey_cipherKey (k : Block) (ks : KState) : (State.withKey k ks s).cipherKey = k := rfl
@[simp] theorem State.withKey_tempKey (k : Block) (ks : KState) : (State.withKey k ks s).tempKey = s.tempKey := rfl
@[simp] theorem State.withKey_ivReg (k : Block) (ks : KState) : (State.withKey k ks s).ivReg = s.ivReg := rfl
@[simp] theorem State.withKey_ie (k : Block) (ks : KState) : (State.withKey k ks s).ie = s.ie := rfl
@[simp] theorem State.withKey_done (k : Block) (ks : KState) : (State.withKey k ks s).done = s.done := rfl
@[simp] theorem State.withKey_err (k : Block) (ks : KState) : (State.withKey k ks s).err = s.err := rfl
@[simp] theorem State.withKey_fmtUsed (k : Block) (ks : KState) : (State.withKey k ks s).fmtUsed = s.fmtUsed := rfl
@[simp] theorem State.withKey_inLen0 (k : Block) (ks : KState) : (State.withKey k ks s).inLen0 = s.inLen0 := rfl
@[simp] theorem State.withKey_inLen1 (k : Block) (ks : KState) : (State.withKey k ks s).inLen1 = s.inLen1 := rfl
@[simp] theorem State.withKey_outLen (k : Block) (ks : KState) : (State.withKey k ks s).outLen = s.outLen := rfl
@[simp] theorem State.withKey_inBuf (k : Block) (ks : KState) : (State.withKey k ks s).inBuf = s.inBuf := rfl
@[simp] theorem State.withKey_outBuf (k : Block) (ks : KState) : (State.withKey k ks s).outBuf = s.outBuf := rfl
@[simp] theorem State.withKey_trngReq (k : Block) (ks : KState) : (State.withKey k ks s).trngReq = s.trngReq := rfl
@[simp] theorem State.withKey_trngValid (k : Block) (ks : KState) : (State.withKey k ks s).trngValid = s.trngValid := rfl
@[simp] theorem State.withKey_trngData (k : Block) (ks : KState) : (State.withKey k ks s).trngData = s.trngData := rfl
@[simp] theorem State.withKey_rstN (k : Block) (ks : KState) : (State.withKey k ks s).rstN = s.rstN := rfl
@[simp] theorem State.withKey_busResult (k : Block) (ks : KState) : (State.withKey k ks s).busResult = s.busResult := rfl
@[simp] theorem State.withKey_inputs (k : Block) (ks : KState) : (State.withKey k ks s).inputs = s.inputs := rfl
@[simp] theorem State.withKey_resetEpoch (k : Block) (ks : KState) : (State.withKey k ks s).resetEpoch = s.resetEpoch := rfl
@[simp] theorem State.withKey_outDraws (k : Block) (ks : KState) : (State.withKey k ks s).outDraws = s.outDraws := rfl

/-! ### `State.withTrngReq` -/

@[simp] theorem State.withTrngReq_bufBytes (r : Bool) : (State.withTrngReq r s).bufBytes = s.bufBytes := rfl
@[simp] theorem State.withTrngReq_seq (r : Bool) : (State.withTrngReq r s).seq = s.seq := rfl
@[simp] theorem State.withTrngReq_kstate (r : Bool) : (State.withTrngReq r s).kstate = s.kstate := rfl
@[simp] theorem State.withTrngReq_cipherKey (r : Bool) : (State.withTrngReq r s).cipherKey = s.cipherKey := rfl
@[simp] theorem State.withTrngReq_tempKey (r : Bool) : (State.withTrngReq r s).tempKey = s.tempKey := rfl
@[simp] theorem State.withTrngReq_ivReg (r : Bool) : (State.withTrngReq r s).ivReg = s.ivReg := rfl
@[simp] theorem State.withTrngReq_ie (r : Bool) : (State.withTrngReq r s).ie = s.ie := rfl
@[simp] theorem State.withTrngReq_done (r : Bool) : (State.withTrngReq r s).done = s.done := rfl
@[simp] theorem State.withTrngReq_err (r : Bool) : (State.withTrngReq r s).err = s.err := rfl
@[simp] theorem State.withTrngReq_fmtUsed (r : Bool) : (State.withTrngReq r s).fmtUsed = s.fmtUsed := rfl
@[simp] theorem State.withTrngReq_inLen0 (r : Bool) : (State.withTrngReq r s).inLen0 = s.inLen0 := rfl
@[simp] theorem State.withTrngReq_inLen1 (r : Bool) : (State.withTrngReq r s).inLen1 = s.inLen1 := rfl
@[simp] theorem State.withTrngReq_outLen (r : Bool) : (State.withTrngReq r s).outLen = s.outLen := rfl
@[simp] theorem State.withTrngReq_inBuf (r : Bool) : (State.withTrngReq r s).inBuf = s.inBuf := rfl
@[simp] theorem State.withTrngReq_outBuf (r : Bool) : (State.withTrngReq r s).outBuf = s.outBuf := rfl
@[simp] theorem State.withTrngReq_trngReq (r : Bool) : (State.withTrngReq r s).trngReq = r := rfl
@[simp] theorem State.withTrngReq_trngValid (r : Bool) : (State.withTrngReq r s).trngValid = s.trngValid := rfl
@[simp] theorem State.withTrngReq_trngData (r : Bool) : (State.withTrngReq r s).trngData = s.trngData := rfl
@[simp] theorem State.withTrngReq_rstN (r : Bool) : (State.withTrngReq r s).rstN = s.rstN := rfl
@[simp] theorem State.withTrngReq_busResult (r : Bool) : (State.withTrngReq r s).busResult = s.busResult := rfl
@[simp] theorem State.withTrngReq_inputs (r : Bool) : (State.withTrngReq r s).inputs = s.inputs := rfl
@[simp] theorem State.withTrngReq_resetEpoch (r : Bool) : (State.withTrngReq r s).resetEpoch = s.resetEpoch := rfl
@[simp] theorem State.withTrngReq_outDraws (r : Bool) : (State.withTrngReq r s).outDraws = s.outDraws := rfl

/-! ### `State.derivationFailed` -/

@[simp] theorem State.derivationFailed_bufBytes (e : ErrCode) : (State.derivationFailed e s).bufBytes = s.bufBytes := rfl
@[simp] theorem State.derivationFailed_seq (e : ErrCode) : (State.derivationFailed e s).seq = .idle := rfl
@[simp] theorem State.derivationFailed_kstate (e : ErrCode) : (State.derivationFailed e s).kstate = .failed := rfl
@[simp] theorem State.derivationFailed_cipherKey (e : ErrCode) : (State.derivationFailed e s).cipherKey = 0 := rfl
@[simp] theorem State.derivationFailed_tempKey (e : ErrCode) : (State.derivationFailed e s).tempKey = 0 := rfl
@[simp] theorem State.derivationFailed_ivReg (e : ErrCode) : (State.derivationFailed e s).ivReg = s.ivReg := rfl
@[simp] theorem State.derivationFailed_ie (e : ErrCode) : (State.derivationFailed e s).ie = s.ie := rfl
@[simp] theorem State.derivationFailed_done (e : ErrCode) : (State.derivationFailed e s).done = true := rfl
@[simp] theorem State.derivationFailed_err (e : ErrCode) : (State.derivationFailed e s).err = e := rfl
@[simp] theorem State.derivationFailed_fmtUsed (e : ErrCode) : (State.derivationFailed e s).fmtUsed = s.fmtUsed := rfl
@[simp] theorem State.derivationFailed_inLen0 (e : ErrCode) : (State.derivationFailed e s).inLen0 = s.inLen0 := rfl
@[simp] theorem State.derivationFailed_inLen1 (e : ErrCode) : (State.derivationFailed e s).inLen1 = s.inLen1 := rfl
@[simp] theorem State.derivationFailed_outLen (e : ErrCode) : (State.derivationFailed e s).outLen = 0 := rfl
@[simp] theorem State.derivationFailed_inBuf (e : ErrCode) : (State.derivationFailed e s).inBuf = s.inBuf := rfl
@[simp] theorem State.derivationFailed_outBuf (e : ErrCode) : (State.derivationFailed e s).outBuf = s.outBuf := rfl
@[simp] theorem State.derivationFailed_trngReq (e : ErrCode) : (State.derivationFailed e s).trngReq = false := rfl
@[simp] theorem State.derivationFailed_trngValid (e : ErrCode) : (State.derivationFailed e s).trngValid = s.trngValid := rfl
@[simp] theorem State.derivationFailed_trngData (e : ErrCode) : (State.derivationFailed e s).trngData = s.trngData := rfl
@[simp] theorem State.derivationFailed_rstN (e : ErrCode) : (State.derivationFailed e s).rstN = s.rstN := rfl
@[simp] theorem State.derivationFailed_busResult (e : ErrCode) : (State.derivationFailed e s).busResult = s.busResult := rfl
@[simp] theorem State.derivationFailed_inputs (e : ErrCode) : (State.derivationFailed e s).inputs = s.inputs := rfl
@[simp] theorem State.derivationFailed_resetEpoch (e : ErrCode) : (State.derivationFailed e s).resetEpoch = s.resetEpoch := rfl
@[simp] theorem State.derivationFailed_outDraws (e : ErrCode) : (State.derivationFailed e s).outDraws = s.outDraws := rfl

/-! ### `State.keyLoaded` -/

@[simp] theorem State.keyLoaded_bufBytes (k : Block) : (State.keyLoaded k s).bufBytes = s.bufBytes := rfl
@[simp] theorem State.keyLoaded_seq (k : Block) : (State.keyLoaded k s).seq = .idle := rfl
@[simp] theorem State.keyLoaded_kstate (k : Block) : (State.keyLoaded k s).kstate = .keyed := rfl
@[simp] theorem State.keyLoaded_cipherKey (k : Block) : (State.keyLoaded k s).cipherKey = k := rfl
@[simp] theorem State.keyLoaded_tempKey (k : Block) : (State.keyLoaded k s).tempKey = s.tempKey := rfl
@[simp] theorem State.keyLoaded_ivReg (k : Block) : (State.keyLoaded k s).ivReg = s.ivReg := rfl
@[simp] theorem State.keyLoaded_ie (k : Block) : (State.keyLoaded k s).ie = s.ie := rfl
@[simp] theorem State.keyLoaded_done (k : Block) : (State.keyLoaded k s).done = true := rfl
@[simp] theorem State.keyLoaded_err (k : Block) : (State.keyLoaded k s).err = .ok := rfl
@[simp] theorem State.keyLoaded_fmtUsed (k : Block) : (State.keyLoaded k s).fmtUsed = s.fmtUsed := rfl
@[simp] theorem State.keyLoaded_inLen0 (k : Block) : (State.keyLoaded k s).inLen0 = s.inLen0 := rfl
@[simp] theorem State.keyLoaded_inLen1 (k : Block) : (State.keyLoaded k s).inLen1 = s.inLen1 := rfl
@[simp] theorem State.keyLoaded_outLen (k : Block) : (State.keyLoaded k s).outLen = 0 := rfl
@[simp] theorem State.keyLoaded_inBuf (k : Block) : (State.keyLoaded k s).inBuf = s.inBuf := rfl
@[simp] theorem State.keyLoaded_outBuf (k : Block) : (State.keyLoaded k s).outBuf = s.outBuf := rfl
@[simp] theorem State.keyLoaded_trngReq (k : Block) : (State.keyLoaded k s).trngReq = false := rfl
@[simp] theorem State.keyLoaded_trngValid (k : Block) : (State.keyLoaded k s).trngValid = s.trngValid := rfl
@[simp] theorem State.keyLoaded_trngData (k : Block) : (State.keyLoaded k s).trngData = s.trngData := rfl
@[simp] theorem State.keyLoaded_rstN (k : Block) : (State.keyLoaded k s).rstN = s.rstN := rfl
@[simp] theorem State.keyLoaded_busResult (k : Block) : (State.keyLoaded k s).busResult = s.busResult := rfl
@[simp] theorem State.keyLoaded_inputs (k : Block) : (State.keyLoaded k s).inputs = s.inputs := rfl
@[simp] theorem State.keyLoaded_resetEpoch (k : Block) : (State.keyLoaded k s).resetEpoch = s.resetEpoch := rfl
@[simp] theorem State.keyLoaded_outDraws (k : Block) : (State.keyLoaded k s).outDraws = s.outDraws := rfl

/-! ### `State.answered` -/

@[simp] theorem State.answered_bufBytes (r : BusResult) : (State.answered r s).bufBytes = s.bufBytes := rfl
@[simp] theorem State.answered_seq (r : BusResult) : (State.answered r s).seq = s.seq := rfl
@[simp] theorem State.answered_kstate (r : BusResult) : (State.answered r s).kstate = s.kstate := rfl
@[simp] theorem State.answered_cipherKey (r : BusResult) : (State.answered r s).cipherKey = s.cipherKey := rfl
@[simp] theorem State.answered_tempKey (r : BusResult) : (State.answered r s).tempKey = s.tempKey := rfl
@[simp] theorem State.answered_ivReg (r : BusResult) : (State.answered r s).ivReg = s.ivReg := rfl
@[simp] theorem State.answered_ie (r : BusResult) : (State.answered r s).ie = s.ie := rfl
@[simp] theorem State.answered_done (r : BusResult) : (State.answered r s).done = s.done := rfl
@[simp] theorem State.answered_err (r : BusResult) : (State.answered r s).err = s.err := rfl
@[simp] theorem State.answered_fmtUsed (r : BusResult) : (State.answered r s).fmtUsed = s.fmtUsed := rfl
@[simp] theorem State.answered_inLen0 (r : BusResult) : (State.answered r s).inLen0 = s.inLen0 := rfl
@[simp] theorem State.answered_inLen1 (r : BusResult) : (State.answered r s).inLen1 = s.inLen1 := rfl
@[simp] theorem State.answered_outLen (r : BusResult) : (State.answered r s).outLen = s.outLen := rfl
@[simp] theorem State.answered_inBuf (r : BusResult) : (State.answered r s).inBuf = s.inBuf := rfl
@[simp] theorem State.answered_outBuf (r : BusResult) : (State.answered r s).outBuf = s.outBuf := rfl
@[simp] theorem State.answered_trngReq (r : BusResult) : (State.answered r s).trngReq = s.trngReq := rfl
@[simp] theorem State.answered_trngValid (r : BusResult) : (State.answered r s).trngValid = s.trngValid := rfl
@[simp] theorem State.answered_trngData (r : BusResult) : (State.answered r s).trngData = s.trngData := rfl
@[simp] theorem State.answered_rstN (r : BusResult) : (State.answered r s).rstN = s.rstN := rfl
@[simp] theorem State.answered_busResult (r : BusResult) : (State.answered r s).busResult = r := rfl
@[simp] theorem State.answered_inputs (r : BusResult) : (State.answered r s).inputs = s.inputs := rfl
@[simp] theorem State.answered_resetEpoch (r : BusResult) : (State.answered r s).resetEpoch = s.resetEpoch := rfl
@[simp] theorem State.answered_outDraws (r : BusResult) : (State.answered r s).outDraws = s.outDraws := rfl

/-! ### `State.drewWord` -/

@[simp] theorem State.drewWord_bufBytes : (State.drewWord s).bufBytes = s.bufBytes := rfl
@[simp] theorem State.drewWord_seq : (State.drewWord s).seq = s.seq := rfl
@[simp] theorem State.drewWord_kstate : (State.drewWord s).kstate = s.kstate := rfl
@[simp] theorem State.drewWord_cipherKey : (State.drewWord s).cipherKey = s.cipherKey := rfl
@[simp] theorem State.drewWord_tempKey : (State.drewWord s).tempKey = s.tempKey := rfl
@[simp] theorem State.drewWord_ivReg : (State.drewWord s).ivReg = s.ivReg := rfl
@[simp] theorem State.drewWord_ie : (State.drewWord s).ie = s.ie := rfl
@[simp] theorem State.drewWord_done : (State.drewWord s).done = s.done := rfl
@[simp] theorem State.drewWord_err : (State.drewWord s).err = s.err := rfl
@[simp] theorem State.drewWord_fmtUsed : (State.drewWord s).fmtUsed = s.fmtUsed := rfl
@[simp] theorem State.drewWord_inLen0 : (State.drewWord s).inLen0 = s.inLen0 := rfl
@[simp] theorem State.drewWord_inLen1 : (State.drewWord s).inLen1 = s.inLen1 := rfl
@[simp] theorem State.drewWord_outLen : (State.drewWord s).outLen = s.outLen := rfl
@[simp] theorem State.drewWord_inBuf : (State.drewWord s).inBuf = s.inBuf := rfl
@[simp] theorem State.drewWord_outBuf : (State.drewWord s).outBuf = s.outBuf := rfl
@[simp] theorem State.drewWord_trngReq : (State.drewWord s).trngReq = s.trngReq := rfl
@[simp] theorem State.drewWord_trngValid : (State.drewWord s).trngValid = s.trngValid := rfl
@[simp] theorem State.drewWord_trngData : (State.drewWord s).trngData = s.trngData := rfl
@[simp] theorem State.drewWord_rstN : (State.drewWord s).rstN = s.rstN := rfl
@[simp] theorem State.drewWord_busResult : (State.drewWord s).busResult = s.busResult := rfl
@[simp] theorem State.drewWord_inputs : (State.drewWord s).inputs = s.inputs := rfl
@[simp] theorem State.drewWord_resetEpoch : (State.drewWord s).resetEpoch = s.resetEpoch := rfl
@[simp] theorem State.drewWord_outDraws : (State.drewWord s).outDraws = s.outDraws + 4 := rfl

/-! ### `State.ctrlWritten` -/

@[simp] theorem State.ctrlWritten_bufBytes (w : Word) : (State.ctrlWritten w s).bufBytes = s.bufBytes := rfl
@[simp] theorem State.ctrlWritten_seq (w : Word) : (State.ctrlWritten w s).seq = s.seq := rfl
@[simp] theorem State.ctrlWritten_kstate (w : Word) : (State.ctrlWritten w s).kstate = s.kstate := rfl
@[simp] theorem State.ctrlWritten_cipherKey (w : Word) : (State.ctrlWritten w s).cipherKey = s.cipherKey := rfl
@[simp] theorem State.ctrlWritten_tempKey (w : Word) : (State.ctrlWritten w s).tempKey = s.tempKey := rfl
@[simp] theorem State.ctrlWritten_ivReg (w : Word) : (State.ctrlWritten w s).ivReg = s.ivReg := rfl
@[simp] theorem State.ctrlWritten_ie (w : Word) : (State.ctrlWritten w s).ie = w.getLsbD 0 := rfl
@[simp] theorem State.ctrlWritten_done (w : Word) : (State.ctrlWritten w s).done = s.done := rfl
@[simp] theorem State.ctrlWritten_err (w : Word) : (State.ctrlWritten w s).err = s.err := rfl
@[simp] theorem State.ctrlWritten_fmtUsed (w : Word) : (State.ctrlWritten w s).fmtUsed = s.fmtUsed := rfl
@[simp] theorem State.ctrlWritten_inLen0 (w : Word) : (State.ctrlWritten w s).inLen0 = s.inLen0 := rfl
@[simp] theorem State.ctrlWritten_inLen1 (w : Word) : (State.ctrlWritten w s).inLen1 = s.inLen1 := rfl
@[simp] theorem State.ctrlWritten_outLen (w : Word) : (State.ctrlWritten w s).outLen = s.outLen := rfl
@[simp] theorem State.ctrlWritten_inBuf (w : Word) : (State.ctrlWritten w s).inBuf = s.inBuf := rfl
@[simp] theorem State.ctrlWritten_outBuf (w : Word) : (State.ctrlWritten w s).outBuf = s.outBuf := rfl
@[simp] theorem State.ctrlWritten_trngReq (w : Word) : (State.ctrlWritten w s).trngReq = s.trngReq := rfl
@[simp] theorem State.ctrlWritten_trngValid (w : Word) : (State.ctrlWritten w s).trngValid = s.trngValid := rfl
@[simp] theorem State.ctrlWritten_trngData (w : Word) : (State.ctrlWritten w s).trngData = s.trngData := rfl
@[simp] theorem State.ctrlWritten_rstN (w : Word) : (State.ctrlWritten w s).rstN = s.rstN := rfl
@[simp] theorem State.ctrlWritten_busResult (w : Word) : (State.ctrlWritten w s).busResult = s.busResult := rfl
@[simp] theorem State.ctrlWritten_inputs (w : Word) : (State.ctrlWritten w s).inputs = s.inputs := rfl
@[simp] theorem State.ctrlWritten_resetEpoch (w : Word) : (State.ctrlWritten w s).resetEpoch = s.resetEpoch := rfl
@[simp] theorem State.ctrlWritten_outDraws (w : Word) : (State.ctrlWritten w s).outDraws = s.outDraws := rfl

/-! ### `State.statusWritten` -/

@[simp] theorem State.statusWritten_bufBytes (b : Bool) (w : Word) : (State.statusWritten b w s).bufBytes = s.bufBytes := rfl
@[simp] theorem State.statusWritten_seq (b : Bool) (w : Word) : (State.statusWritten b w s).seq = s.seq := rfl
@[simp] theorem State.statusWritten_kstate (b : Bool) (w : Word) : (State.statusWritten b w s).kstate = s.kstate := rfl
@[simp] theorem State.statusWritten_cipherKey (b : Bool) (w : Word) : (State.statusWritten b w s).cipherKey = s.cipherKey := rfl
@[simp] theorem State.statusWritten_tempKey (b : Bool) (w : Word) : (State.statusWritten b w s).tempKey = s.tempKey := rfl
@[simp] theorem State.statusWritten_ivReg (b : Bool) (w : Word) : (State.statusWritten b w s).ivReg = s.ivReg := rfl
@[simp] theorem State.statusWritten_ie (b : Bool) (w : Word) : (State.statusWritten b w s).ie = s.ie := rfl
@[simp] theorem State.statusWritten_done (b : Bool) (w : Word) : (State.statusWritten b w s).done = (s.done && !(w.getLsbD 1 && !b)) := rfl
@[simp] theorem State.statusWritten_err (b : Bool) (w : Word) : (State.statusWritten b w s).err = s.err := rfl
@[simp] theorem State.statusWritten_fmtUsed (b : Bool) (w : Word) : (State.statusWritten b w s).fmtUsed = s.fmtUsed := rfl
@[simp] theorem State.statusWritten_inLen0 (b : Bool) (w : Word) : (State.statusWritten b w s).inLen0 = s.inLen0 := rfl
@[simp] theorem State.statusWritten_inLen1 (b : Bool) (w : Word) : (State.statusWritten b w s).inLen1 = s.inLen1 := rfl
@[simp] theorem State.statusWritten_outLen (b : Bool) (w : Word) : (State.statusWritten b w s).outLen = s.outLen := rfl
@[simp] theorem State.statusWritten_inBuf (b : Bool) (w : Word) : (State.statusWritten b w s).inBuf = s.inBuf := rfl
@[simp] theorem State.statusWritten_outBuf (b : Bool) (w : Word) : (State.statusWritten b w s).outBuf = s.outBuf := rfl
@[simp] theorem State.statusWritten_trngReq (b : Bool) (w : Word) : (State.statusWritten b w s).trngReq = s.trngReq := rfl
@[simp] theorem State.statusWritten_trngValid (b : Bool) (w : Word) : (State.statusWritten b w s).trngValid = s.trngValid := rfl
@[simp] theorem State.statusWritten_trngData (b : Bool) (w : Word) : (State.statusWritten b w s).trngData = s.trngData := rfl
@[simp] theorem State.statusWritten_rstN (b : Bool) (w : Word) : (State.statusWritten b w s).rstN = s.rstN := rfl
@[simp] theorem State.statusWritten_busResult (b : Bool) (w : Word) : (State.statusWritten b w s).busResult = s.busResult := rfl
@[simp] theorem State.statusWritten_inputs (b : Bool) (w : Word) : (State.statusWritten b w s).inputs = s.inputs := rfl
@[simp] theorem State.statusWritten_resetEpoch (b : Bool) (w : Word) : (State.statusWritten b w s).resetEpoch = s.resetEpoch := rfl
@[simp] theorem State.statusWritten_outDraws (b : Bool) (w : Word) : (State.statusWritten b w s).outDraws = s.outDraws := rfl

/-! ### `State.inLen0Written` -/

@[simp] theorem State.inLen0Written_bufBytes (w : Word) : (State.inLen0Written w s).bufBytes = s.bufBytes := rfl
@[simp] theorem State.inLen0Written_seq (w : Word) : (State.inLen0Written w s).seq = s.seq := rfl
@[simp] theorem State.inLen0Written_kstate (w : Word) : (State.inLen0Written w s).kstate = s.kstate := rfl
@[simp] theorem State.inLen0Written_cipherKey (w : Word) : (State.inLen0Written w s).cipherKey = s.cipherKey := rfl
@[simp] theorem State.inLen0Written_tempKey (w : Word) : (State.inLen0Written w s).tempKey = s.tempKey := rfl
@[simp] theorem State.inLen0Written_ivReg (w : Word) : (State.inLen0Written w s).ivReg = s.ivReg := rfl
@[simp] theorem State.inLen0Written_ie (w : Word) : (State.inLen0Written w s).ie = s.ie := rfl
@[simp] theorem State.inLen0Written_done (w : Word) : (State.inLen0Written w s).done = s.done := rfl
@[simp] theorem State.inLen0Written_err (w : Word) : (State.inLen0Written w s).err = s.err := rfl
@[simp] theorem State.inLen0Written_fmtUsed (w : Word) : (State.inLen0Written w s).fmtUsed = s.fmtUsed := rfl
@[simp] theorem State.inLen0Written_inLen0 (w : Word) : (State.inLen0Written w s).inLen0 = w := rfl
@[simp] theorem State.inLen0Written_inLen1 (w : Word) : (State.inLen0Written w s).inLen1 = s.inLen1 := rfl
@[simp] theorem State.inLen0Written_outLen (w : Word) : (State.inLen0Written w s).outLen = s.outLen := rfl
@[simp] theorem State.inLen0Written_inBuf (w : Word) : (State.inLen0Written w s).inBuf = s.inBuf := rfl
@[simp] theorem State.inLen0Written_outBuf (w : Word) : (State.inLen0Written w s).outBuf = s.outBuf := rfl
@[simp] theorem State.inLen0Written_trngReq (w : Word) : (State.inLen0Written w s).trngReq = s.trngReq := rfl
@[simp] theorem State.inLen0Written_trngValid (w : Word) : (State.inLen0Written w s).trngValid = s.trngValid := rfl
@[simp] theorem State.inLen0Written_trngData (w : Word) : (State.inLen0Written w s).trngData = s.trngData := rfl
@[simp] theorem State.inLen0Written_rstN (w : Word) : (State.inLen0Written w s).rstN = s.rstN := rfl
@[simp] theorem State.inLen0Written_busResult (w : Word) : (State.inLen0Written w s).busResult = s.busResult := rfl
@[simp] theorem State.inLen0Written_inputs (w : Word) : (State.inLen0Written w s).inputs = s.inputs := rfl
@[simp] theorem State.inLen0Written_resetEpoch (w : Word) : (State.inLen0Written w s).resetEpoch = s.resetEpoch := rfl
@[simp] theorem State.inLen0Written_outDraws (w : Word) : (State.inLen0Written w s).outDraws = s.outDraws := rfl

/-! ### `State.inLen1Written` -/

@[simp] theorem State.inLen1Written_bufBytes (w : Word) : (State.inLen1Written w s).bufBytes = s.bufBytes := rfl
@[simp] theorem State.inLen1Written_seq (w : Word) : (State.inLen1Written w s).seq = s.seq := rfl
@[simp] theorem State.inLen1Written_kstate (w : Word) : (State.inLen1Written w s).kstate = s.kstate := rfl
@[simp] theorem State.inLen1Written_cipherKey (w : Word) : (State.inLen1Written w s).cipherKey = s.cipherKey := rfl
@[simp] theorem State.inLen1Written_tempKey (w : Word) : (State.inLen1Written w s).tempKey = s.tempKey := rfl
@[simp] theorem State.inLen1Written_ivReg (w : Word) : (State.inLen1Written w s).ivReg = s.ivReg := rfl
@[simp] theorem State.inLen1Written_ie (w : Word) : (State.inLen1Written w s).ie = s.ie := rfl
@[simp] theorem State.inLen1Written_done (w : Word) : (State.inLen1Written w s).done = s.done := rfl
@[simp] theorem State.inLen1Written_err (w : Word) : (State.inLen1Written w s).err = s.err := rfl
@[simp] theorem State.inLen1Written_fmtUsed (w : Word) : (State.inLen1Written w s).fmtUsed = s.fmtUsed := rfl
@[simp] theorem State.inLen1Written_inLen0 (w : Word) : (State.inLen1Written w s).inLen0 = s.inLen0 := rfl
@[simp] theorem State.inLen1Written_inLen1 (w : Word) : (State.inLen1Written w s).inLen1 = w := rfl
@[simp] theorem State.inLen1Written_outLen (w : Word) : (State.inLen1Written w s).outLen = s.outLen := rfl
@[simp] theorem State.inLen1Written_inBuf (w : Word) : (State.inLen1Written w s).inBuf = s.inBuf := rfl
@[simp] theorem State.inLen1Written_outBuf (w : Word) : (State.inLen1Written w s).outBuf = s.outBuf := rfl
@[simp] theorem State.inLen1Written_trngReq (w : Word) : (State.inLen1Written w s).trngReq = s.trngReq := rfl
@[simp] theorem State.inLen1Written_trngValid (w : Word) : (State.inLen1Written w s).trngValid = s.trngValid := rfl
@[simp] theorem State.inLen1Written_trngData (w : Word) : (State.inLen1Written w s).trngData = s.trngData := rfl
@[simp] theorem State.inLen1Written_rstN (w : Word) : (State.inLen1Written w s).rstN = s.rstN := rfl
@[simp] theorem State.inLen1Written_busResult (w : Word) : (State.inLen1Written w s).busResult = s.busResult := rfl
@[simp] theorem State.inLen1Written_inputs (w : Word) : (State.inLen1Written w s).inputs = s.inputs := rfl
@[simp] theorem State.inLen1Written_resetEpoch (w : Word) : (State.inLen1Written w s).resetEpoch = s.resetEpoch := rfl
@[simp] theorem State.inLen1Written_outDraws (w : Word) : (State.inLen1Written w s).outDraws = s.outDraws := rfl

/-! ### `State.inWordWritten` -/

@[simp] theorem State.inWordWritten_bufBytes (o : Nat) (w : Word) : (State.inWordWritten o w s).bufBytes = s.bufBytes := rfl
@[simp] theorem State.inWordWritten_seq (o : Nat) (w : Word) : (State.inWordWritten o w s).seq = s.seq := rfl
@[simp] theorem State.inWordWritten_kstate (o : Nat) (w : Word) : (State.inWordWritten o w s).kstate = s.kstate := rfl
@[simp] theorem State.inWordWritten_cipherKey (o : Nat) (w : Word) : (State.inWordWritten o w s).cipherKey = s.cipherKey := rfl
@[simp] theorem State.inWordWritten_tempKey (o : Nat) (w : Word) : (State.inWordWritten o w s).tempKey = s.tempKey := rfl
@[simp] theorem State.inWordWritten_ivReg (o : Nat) (w : Word) : (State.inWordWritten o w s).ivReg = s.ivReg := rfl
@[simp] theorem State.inWordWritten_ie (o : Nat) (w : Word) : (State.inWordWritten o w s).ie = s.ie := rfl
@[simp] theorem State.inWordWritten_done (o : Nat) (w : Word) : (State.inWordWritten o w s).done = s.done := rfl
@[simp] theorem State.inWordWritten_err (o : Nat) (w : Word) : (State.inWordWritten o w s).err = s.err := rfl
@[simp] theorem State.inWordWritten_fmtUsed (o : Nat) (w : Word) : (State.inWordWritten o w s).fmtUsed = s.fmtUsed := rfl
@[simp] theorem State.inWordWritten_inLen0 (o : Nat) (w : Word) : (State.inWordWritten o w s).inLen0 = s.inLen0 := rfl
@[simp] theorem State.inWordWritten_inLen1 (o : Nat) (w : Word) : (State.inWordWritten o w s).inLen1 = s.inLen1 := rfl
@[simp] theorem State.inWordWritten_outLen (o : Nat) (w : Word) : (State.inWordWritten o w s).outLen = s.outLen := rfl
@[simp] theorem State.inWordWritten_inBuf (o : Nat) (w : Word) : (State.inWordWritten o w s).inBuf = Memory.writeBytes s.inBuf o [wordLane w 0, wordLane w 1, wordLane w 2, wordLane w 3] := rfl
@[simp] theorem State.inWordWritten_outBuf (o : Nat) (w : Word) : (State.inWordWritten o w s).outBuf = s.outBuf := rfl
@[simp] theorem State.inWordWritten_trngReq (o : Nat) (w : Word) : (State.inWordWritten o w s).trngReq = s.trngReq := rfl
@[simp] theorem State.inWordWritten_trngValid (o : Nat) (w : Word) : (State.inWordWritten o w s).trngValid = s.trngValid := rfl
@[simp] theorem State.inWordWritten_trngData (o : Nat) (w : Word) : (State.inWordWritten o w s).trngData = s.trngData := rfl
@[simp] theorem State.inWordWritten_rstN (o : Nat) (w : Word) : (State.inWordWritten o w s).rstN = s.rstN := rfl
@[simp] theorem State.inWordWritten_busResult (o : Nat) (w : Word) : (State.inWordWritten o w s).busResult = s.busResult := rfl
@[simp] theorem State.inWordWritten_inputs (o : Nat) (w : Word) : (State.inWordWritten o w s).inputs = s.inputs := rfl
@[simp] theorem State.inWordWritten_resetEpoch (o : Nat) (w : Word) : (State.inWordWritten o w s).resetEpoch = s.resetEpoch := rfl
@[simp] theorem State.inWordWritten_outDraws (o : Nat) (w : Word) : (State.inWordWritten o w s).outDraws = s.outDraws := rfl

/-! ### `State.trngDriven` -/

@[simp] theorem State.trngDriven_bufBytes (v : Bool) (d : Block) : (State.trngDriven v d s).bufBytes = s.bufBytes := rfl
@[simp] theorem State.trngDriven_seq (v : Bool) (d : Block) : (State.trngDriven v d s).seq = s.seq := rfl
@[simp] theorem State.trngDriven_kstate (v : Bool) (d : Block) : (State.trngDriven v d s).kstate = s.kstate := rfl
@[simp] theorem State.trngDriven_cipherKey (v : Bool) (d : Block) : (State.trngDriven v d s).cipherKey = s.cipherKey := rfl
@[simp] theorem State.trngDriven_tempKey (v : Bool) (d : Block) : (State.trngDriven v d s).tempKey = s.tempKey := rfl
@[simp] theorem State.trngDriven_ivReg (v : Bool) (d : Block) : (State.trngDriven v d s).ivReg = s.ivReg := rfl
@[simp] theorem State.trngDriven_ie (v : Bool) (d : Block) : (State.trngDriven v d s).ie = s.ie := rfl
@[simp] theorem State.trngDriven_done (v : Bool) (d : Block) : (State.trngDriven v d s).done = s.done := rfl
@[simp] theorem State.trngDriven_err (v : Bool) (d : Block) : (State.trngDriven v d s).err = s.err := rfl
@[simp] theorem State.trngDriven_fmtUsed (v : Bool) (d : Block) : (State.trngDriven v d s).fmtUsed = s.fmtUsed := rfl
@[simp] theorem State.trngDriven_inLen0 (v : Bool) (d : Block) : (State.trngDriven v d s).inLen0 = s.inLen0 := rfl
@[simp] theorem State.trngDriven_inLen1 (v : Bool) (d : Block) : (State.trngDriven v d s).inLen1 = s.inLen1 := rfl
@[simp] theorem State.trngDriven_outLen (v : Bool) (d : Block) : (State.trngDriven v d s).outLen = s.outLen := rfl
@[simp] theorem State.trngDriven_inBuf (v : Bool) (d : Block) : (State.trngDriven v d s).inBuf = s.inBuf := rfl
@[simp] theorem State.trngDriven_outBuf (v : Bool) (d : Block) : (State.trngDriven v d s).outBuf = s.outBuf := rfl
@[simp] theorem State.trngDriven_trngReq (v : Bool) (d : Block) : (State.trngDriven v d s).trngReq = s.trngReq := rfl
@[simp] theorem State.trngDriven_trngValid (v : Bool) (d : Block) : (State.trngDriven v d s).trngValid = v := rfl
@[simp] theorem State.trngDriven_trngData (v : Bool) (d : Block) : (State.trngDriven v d s).trngData = d := rfl
@[simp] theorem State.trngDriven_rstN (v : Bool) (d : Block) : (State.trngDriven v d s).rstN = s.rstN := rfl
@[simp] theorem State.trngDriven_busResult (v : Bool) (d : Block) : (State.trngDriven v d s).busResult = s.busResult := rfl
@[simp] theorem State.trngDriven_inputs (v : Bool) (d : Block) : (State.trngDriven v d s).inputs = s.inputs := rfl
@[simp] theorem State.trngDriven_resetEpoch (v : Bool) (d : Block) : (State.trngDriven v d s).resetEpoch = s.resetEpoch := rfl
@[simp] theorem State.trngDriven_outDraws (v : Bool) (d : Block) : (State.trngDriven v d s).outDraws = s.outDraws := rfl

/-! ### `State.withInputs` -/

@[simp] theorem State.withInputs_bufBytes (l : List Input) : (State.withInputs l s).bufBytes = s.bufBytes := rfl
@[simp] theorem State.withInputs_seq (l : List Input) : (State.withInputs l s).seq = s.seq := rfl
@[simp] theorem State.withInputs_kstate (l : List Input) : (State.withInputs l s).kstate = s.kstate := rfl
@[simp] theorem State.withInputs_cipherKey (l : List Input) : (State.withInputs l s).cipherKey = s.cipherKey := rfl
@[simp] theorem State.withInputs_tempKey (l : List Input) : (State.withInputs l s).tempKey = s.tempKey := rfl
@[simp] theorem State.withInputs_ivReg (l : List Input) : (State.withInputs l s).ivReg = s.ivReg := rfl
@[simp] theorem State.withInputs_ie (l : List Input) : (State.withInputs l s).ie = s.ie := rfl
@[simp] theorem State.withInputs_done (l : List Input) : (State.withInputs l s).done = s.done := rfl
@[simp] theorem State.withInputs_err (l : List Input) : (State.withInputs l s).err = s.err := rfl
@[simp] theorem State.withInputs_fmtUsed (l : List Input) : (State.withInputs l s).fmtUsed = s.fmtUsed := rfl
@[simp] theorem State.withInputs_inLen0 (l : List Input) : (State.withInputs l s).inLen0 = s.inLen0 := rfl
@[simp] theorem State.withInputs_inLen1 (l : List Input) : (State.withInputs l s).inLen1 = s.inLen1 := rfl
@[simp] theorem State.withInputs_outLen (l : List Input) : (State.withInputs l s).outLen = s.outLen := rfl
@[simp] theorem State.withInputs_inBuf (l : List Input) : (State.withInputs l s).inBuf = s.inBuf := rfl
@[simp] theorem State.withInputs_outBuf (l : List Input) : (State.withInputs l s).outBuf = s.outBuf := rfl
@[simp] theorem State.withInputs_trngReq (l : List Input) : (State.withInputs l s).trngReq = s.trngReq := rfl
@[simp] theorem State.withInputs_trngValid (l : List Input) : (State.withInputs l s).trngValid = s.trngValid := rfl
@[simp] theorem State.withInputs_trngData (l : List Input) : (State.withInputs l s).trngData = s.trngData := rfl
@[simp] theorem State.withInputs_rstN (l : List Input) : (State.withInputs l s).rstN = s.rstN := rfl
@[simp] theorem State.withInputs_busResult (l : List Input) : (State.withInputs l s).busResult = s.busResult := rfl
@[simp] theorem State.withInputs_inputs (l : List Input) : (State.withInputs l s).inputs = l := rfl
@[simp] theorem State.withInputs_resetEpoch (l : List Input) : (State.withInputs l s).resetEpoch = s.resetEpoch := rfl
@[simp] theorem State.withInputs_outDraws (l : List Input) : (State.withInputs l s).outDraws = s.outDraws := rfl

/-! ### `State.resetAsserted` -/

@[simp] theorem State.resetAsserted_bufBytes : (State.resetAsserted s).bufBytes = s.bufBytes := rfl
@[simp] theorem State.resetAsserted_seq : (State.resetAsserted s).seq = .idle := rfl
@[simp] theorem State.resetAsserted_kstate : (State.resetAsserted s).kstate = .unkeyed := rfl
@[simp] theorem State.resetAsserted_cipherKey : (State.resetAsserted s).cipherKey = 0 := rfl
@[simp] theorem State.resetAsserted_tempKey : (State.resetAsserted s).tempKey = 0 := rfl
@[simp] theorem State.resetAsserted_ivReg : (State.resetAsserted s).ivReg = 0 := rfl
@[simp] theorem State.resetAsserted_ie : (State.resetAsserted s).ie = false := rfl
@[simp] theorem State.resetAsserted_done : (State.resetAsserted s).done = false := rfl
@[simp] theorem State.resetAsserted_err : (State.resetAsserted s).err = .ok := rfl
@[simp] theorem State.resetAsserted_fmtUsed : (State.resetAsserted s).fmtUsed = .legacy := rfl
@[simp] theorem State.resetAsserted_inLen0 : (State.resetAsserted s).inLen0 = 0 := rfl
@[simp] theorem State.resetAsserted_inLen1 : (State.resetAsserted s).inLen1 = 0 := rfl
@[simp] theorem State.resetAsserted_outLen : (State.resetAsserted s).outLen = 0 := rfl
@[simp] theorem State.resetAsserted_inBuf : (State.resetAsserted s).inBuf = [] := rfl
@[simp] theorem State.resetAsserted_outBuf : (State.resetAsserted s).outBuf = [] := rfl
@[simp] theorem State.resetAsserted_trngReq : (State.resetAsserted s).trngReq = false := rfl
@[simp] theorem State.resetAsserted_trngValid : (State.resetAsserted s).trngValid = s.trngValid := rfl
@[simp] theorem State.resetAsserted_trngData : (State.resetAsserted s).trngData = s.trngData := rfl
@[simp] theorem State.resetAsserted_rstN : (State.resetAsserted s).rstN = false := rfl
@[simp] theorem State.resetAsserted_busResult : (State.resetAsserted s).busResult = .none := rfl
@[simp] theorem State.resetAsserted_inputs : (State.resetAsserted s).inputs = s.inputs := rfl
@[simp] theorem State.resetAsserted_resetEpoch : (State.resetAsserted s).resetEpoch = s.resetEpoch + 1 := rfl
@[simp] theorem State.resetAsserted_outDraws : (State.resetAsserted s).outDraws = s.outDraws := rfl

/-! ### The views of an operand and of the output -/

/-- A byte of IN_BUF depends on the host's writes and on the count of resets alone (R44). -/
theorem State.inByte_congr {s t : State} (hb : t.inBuf = s.inBuf) (he : t.resetEpoch = s.resetEpoch) (i : Nat) :
    t.inByte i = s.inByte i := by
  simp only [State.inByte, hb, he]

/-- A range of IN_BUF depends on the host's writes and on the count of resets alone (R44). -/
theorem State.memReadIn_congr {s t : State} (hb : t.inBuf = s.inBuf) (he : t.resetEpoch = s.resetEpoch) (a n : Nat) :
    t.memReadIn a n = s.memReadIn a n := by
  simp only [State.memReadIn, State.inByte_congr hb he]

/-- `MemRead(IN, a, n)` has `n` bytes (R16). -/
@[simp] theorem State.memReadIn_length (a n : Nat) : (s.memReadIn a n).length = n := by
  simp [State.memReadIn]

/-- Byte `i` of `MemRead(IN, a, n)` is byte `a + i` of IN_BUF (R16). -/
theorem State.memReadIn_getElem? (a n i : Nat) (h : i < n) : (s.memReadIn a n)[i]? = some (s.inByte (a + i)) := by
  simp [State.memReadIn, h]

/-- While BUSY no byte of OUT_BUF is defined (R33). -/
theorem State.outByte_busy {c : Instr} (h : s.seq = .busy c) (i : Nat) : s.outByte i = none := by
  simp [State.outByte, h]

/-- At and beyond OUT_LEN no byte of OUT_BUF is defined (R33). -/
theorem State.outByte_beyond {i : Nat} (h : s.outLen.toNat ≤ i) : s.outByte i = none := by
  simp only [State.outByte]
  exact if_neg fun hi => absurd hi.2 (Nat.not_lt.mpr h)

end Sys2Proof.Machine
end

