-- ==== Sys2Proof/Laws/Exec.lean ====
section
/-! SUPPORT. What each meaning can do, said once: the next state it answers and under which condition. No meaning faults or
refuses (`exec_next`). -/

namespace Sys2Proof.Machine

/-- A command that ends with a verdict finishes with its output or raises its error (R163). -/
theorem State.complete_cases {s t : State} {r : Except ErrCode Bytes} (h : s.complete r = .next t) :
    (∃ B, r = .ok B ∧ t = s.finished B) ∨ (∃ e, r = .error e ∧ t = s.raised e) := by
  cases r with
  | ok B => exact .inl ⟨B, rfl, by cases h; rfl⟩
  | error e => exact .inr ⟨e, rfl, by cases h; rfl⟩

/-- A derivation after its length checks loads the key or fails for want of the marker (R140). -/
theorem deriveFrom_cases (mk hsk : Bytes) (s : State) :
    (markerAt16 (ecbD (blockBytes (blockOfBytes (tempKeyOf mk))) hsk) = true ∧
      deriveFrom mk hsk s =
        ((s.withTempKey 0).keyLoaded
          (blockOfBytes (slice (ecbD (blockBytes (blockOfBytes (tempKeyOf mk))) hsk) 0 16)))) ∨
    (markerAt16 (ecbD (blockBytes (blockOfBytes (tempKeyOf mk))) hsk) = false ∧
      deriveFrom mk hsk s = s.derivationFailed .kdf) := by
  cases h : markerAt16 (ecbD (blockBytes (blockOfBytes (tempKeyOf mk))) hsk) with
  | true => exact .inl ⟨rfl, by simp only [deriveFrom, State.withTempKey_tempKey, h, if_true]; rfl⟩
  | false => exact .inr ⟨rfl, by simp only [deriveFrom, State.withTempKey_tempKey, h]; rfl⟩

/-- What DERIVE can do (R140, R142). -/
theorem execDerive_cases (s : State) :
    (s.bufBytes < s.len0 + s.len1 ∧ execDerive s = .next (s.derivationFailed .length)) ∨
    (s.len0 + s.len1 ≤ s.bufBytes ∧ (s.len1 < 32 ∨ s.len1 % 16 ≠ 0) ∧
      execDerive s = .next (s.derivationFailed .kdf)) ∨
    (s.len0 + s.len1 ≤ s.bufBytes ∧ 32 ≤ s.len1 ∧ s.len1 % 16 = 0 ∧
      execDerive s = .next (deriveFrom (s.memReadIn 0 s.len0) (s.memReadIn s.len0 s.len1) s)) := by
  by_cases h1 : s.len0 + s.len1 > s.bufBytes
  · exact .inl ⟨h1, by rw [execDerive, if_pos h1]⟩
  · by_cases h2 : s.len1 < 32 ∨ s.len1 % 16 ≠ 0
    · exact .inr (.inl ⟨by omega, h2, by rw [execDerive, if_neg h1, if_pos h2]⟩)
    · exact .inr (.inr ⟨by omega, by omega, by omega, by rw [execDerive, if_neg h1, if_neg h2]⟩)

/-- What DECRYPT can do (R157, R170, R180). -/
theorem execDecrypt_cases (s : State) :
    (s.kstate ≠ .keyed ∧ execDecrypt s = .next (s.raised .notKeyed)) ∨
    (s.kstate = .keyed ∧ s.bufBytes < s.len0 ∧ execDecrypt s = .next (s.raised .length)) ∨
    (s.kstate = .keyed ∧ s.len0 ≤ s.bufBytes ∧ detect (s.memReadIn 0 s.len0) = .legacy ∧
      execDecrypt s = (s.withFmtUsed .legacy).complete (legacyVerdict s.key (s.memReadIn 0 s.len0))) ∨
    (s.kstate = .keyed ∧ s.len0 ≤ s.bufBytes ∧ detect (s.memReadIn 0 s.len0) = .framed ∧
      parseFrame (s.memReadIn 0 s.len0) = none ∧
      execDecrypt s = .next ((s.withFmtUsed .framed).raised .malformed)) ∨
    (s.kstate = .keyed ∧ s.len0 ≤ s.bufBytes ∧ detect (s.memReadIn 0 s.len0) = .framed ∧
      ∃ iv body, parseFrame (s.memReadIn 0 s.len0) = some (iv, body) ∧
        execDecrypt s =
          ((s.withFmtUsed .framed).withIv (blockOfBytes iv)).complete (framedVerdict s.key iv body)) := by
  by_cases h1 : s.kstate = .keyed
  · by_cases h2 : s.len0 > s.bufBytes
    · exact .inr (.inl ⟨h1, h2, by rw [execDecrypt, if_neg (not_not_intro h1), if_pos h2]; rfl⟩)
    · have he : execDecrypt s = decryptPayload (s.memReadIn 0 s.len0) s := by
        rw [execDecrypt, if_neg (not_not_intro h1), if_neg h2]
      have hle : s.len0 ≤ s.bufBytes := by omega
      cases hd : detect (s.memReadIn 0 s.len0) with
      | legacy =>
        refine .inr (.inr (.inl ⟨h1, hle, rfl, ?_⟩))
        rw [he, decryptPayload, hd]
        rfl
      | framed =>
        have he' : execDecrypt s = framedDecode (s.memReadIn 0 s.len0) (s.withFmtUsed .framed) := by
          rw [he, decryptPayload, hd]
        cases hp : parseFrame (s.memReadIn 0 s.len0) with
        | none => exact .inr (.inr (.inr (.inl ⟨h1, hle, rfl, rfl, by rw [he', framedDecode, hp]; rfl⟩)))
        | some q =>
          obtain ⟨iv, body⟩ := q
          exact .inr (.inr (.inr (.inr ⟨h1, hle, rfl, iv, body, rfl, by rw [he', framedDecode, hp]; rfl⟩)))
  · exact .inl ⟨h1, by rw [execDecrypt, if_pos h1]; rfl⟩

/-- The verdict on an ENCRYPT's plaintext: the plaintext itself when all three checks pass (R158). -/
theorem plaintextVerdict_cases (fmt : Format) (bufBytes n : Nat) (M : Bytes) :
    (bufBytes < n ∧ plaintextVerdict fmt bufBytes n M = .error .length) ∨
    (n ≤ bufBytes ∧ utf8OK M = false ∧ plaintextVerdict fmt bufBytes n M = .error .decoding) ∨
    (n ≤ bufBytes ∧ utf8OK M = true ∧ bufBytes < outLenOf fmt n ∧
      plaintextVerdict fmt bufBytes n M = .error .length) ∨
    (n ≤ bufBytes ∧ utf8OK M = true ∧ outLenOf fmt n ≤ bufBytes ∧ plaintextVerdict fmt bufBytes n M = .ok M) := by
  by_cases h1 : n > bufBytes
  · exact .inl ⟨h1, by rw [plaintextVerdict, if_pos h1]⟩
  · cases h2 : utf8OK M with
    | false => exact .inr (.inl ⟨by omega, rfl, by rw [plaintextVerdict, if_neg h1, if_pos (by simp [h2])]⟩)
    | true =>
      by_cases h3 : outLenOf fmt n > bufBytes
      · exact .inr (.inr (.inl ⟨by omega, rfl, h3, by rw [plaintextVerdict, if_neg h1, if_neg (by simp [h2]), if_pos h3]⟩))
      · exact .inr (.inr (.inr
          ⟨by omega, rfl, by omega, by rw [plaintextVerdict, if_neg h1, if_neg (by simp [h2]), if_neg h3]⟩))

/-- What ENCRYPT(fmt) can do before its codec runs (R158). -/
theorem encryptWith_cases (fmt : Format) (encode : Bytes → Out) (s : State) :
    (s.kstate ≠ .keyed ∧ encryptWith fmt encode s = .next (s.raised .notKeyed)) ∨
    (s.kstate = .keyed ∧ ∃ e, plaintextVerdict fmt s.bufBytes s.len0 (s.memReadIn 0 s.len0) = .error e ∧
      encryptWith fmt encode s = .next ((s.withFmtUsed fmt).raised e)) ∨
    (s.kstate = .keyed ∧
      plaintextVerdict fmt s.bufBytes s.len0 (s.memReadIn 0 s.len0) = .ok (s.memReadIn 0 s.len0) ∧
      encryptWith fmt encode s = encode (s.memReadIn 0 s.len0)) := by
  by_cases h1 : s.kstate = .keyed
  · have hv := plaintextVerdict_cases fmt s.bufBytes s.len0 (s.memReadIn 0 s.len0)
    have hn : ¬s.kstate ≠ .keyed := not_not_intro h1
    rcases hv with ⟨-, hv⟩ | ⟨-, -, hv⟩ | ⟨-, -, -, hv⟩ | ⟨-, -, -, hv⟩
    · exact .inr (.inl ⟨h1, _, hv, by rw [encryptWith, if_neg hn, hv]; rfl⟩)
    · exact .inr (.inl ⟨h1, _, hv, by rw [encryptWith, if_neg hn, hv]; rfl⟩)
    · exact .inr (.inl ⟨h1, _, hv, by rw [encryptWith, if_neg hn, hv]; rfl⟩)
    · exact .inr (.inr ⟨h1, hv, by rw [encryptWith, if_neg hn, hv]⟩)
  · exact .inl ⟨h1, by rw [encryptWith, if_pos h1]; rfl⟩

/-- What FRAMED_ENCODE can do: raise its request, wait, or take the draw and finish (R185, R130). -/
theorem framedEncode_cases (s : State) (M : Bytes) :
    (s.trngReq = false ∧ framedEncode s M = .next (s.withTrngReq true)) ∨
    (s.trngReq = true ∧ s.trngValid = false ∧ framedEncode s M = .next s) ∨
    (s.trngReq = true ∧ s.trngValid = true ∧
      framedEncode s M =
        .next ((((s.withTrngReq false).withFmtUsed .framed).withIv s.trngData).finished
          (framedPayload s.key s.draw16 M))) := by
  cases h1 : s.trngReq with
  | false => exact .inl ⟨rfl, by rw [framedEncode, if_pos (by simp [h1])]⟩
  | true =>
    cases h2 : s.trngValid with
    | false => exact .inr (.inl ⟨rfl, rfl, by rw [framedEncode, if_neg (by simp [h1]), if_pos (by simp [h2])]⟩)
    | true =>
      exact .inr (.inr ⟨rfl, rfl, by rw [framedEncode, if_neg (by simp [h1]), if_neg (by simp [h2])]; rfl⟩)

/-- What an ENCRYPT of an unsupported format does (R159). -/
theorem encryptUnsupported_eq (s : State) :
    encryptUnsupported s = .next (s.raised (if s.kstate = .keyed then .unsupported else .notKeyed)) := by
  by_cases h : s.kstate = .keyed
  · rw [encryptUnsupported, if_neg (not_not_intro h), if_pos h]
    rfl
  · rw [encryptUnsupported, if_pos h, if_neg h]
    rfl

/-- The states a command can end a step in, each built from the state before by named updates (R140, R153, R154, R240). -/
inductive CommandEffect (s : State) : State → Prop where
  /-- A derivation failed. -/
  | derivationFailed (e : ErrCode) : CommandEffect s (s.derivationFailed e)
  /-- A key was derived. -/
  | keyLoaded (k : Block) : CommandEffect s ((s.withTempKey 0).keyLoaded k)
  /-- An error before the format was recorded. -/
  | raised (e : ErrCode) : CommandEffect s (s.raised e)
  /-- An error after the format was recorded. -/
  | raisedFmt (f : Format) (e : ErrCode) : CommandEffect s ((s.withFmtUsed f).raised e)
  /-- An error of a Framed decode after its frame checks. -/
  | raisedIv (iv : Block) (e : ErrCode) : CommandEffect s (((s.withFmtUsed .framed).withIv iv).raised e)
  /-- A Legacy success. -/
  | finishedLegacy (B : Bytes) : CommandEffect s ((s.withFmtUsed .legacy).finished B)
  /-- A Framed success. -/
  | finishedFramed (iv : Block) (B : Bytes) : CommandEffect s (((s.withFmtUsed .framed).withIv iv).finished B)
  /-- A request for a draw. -/
  | requested : CommandEffect s (s.withTrngReq true)
  /-- A wait for a draw. -/
  | waited : s.trngReq = true → CommandEffect s s

/-- An illegal word has the one meaning of R154. -/
theorem exec_of_isIllegal {c : Instr} (h : c.isIllegal = true) (s : State) : exec c s = .next s.illegalCompleted := by
  cases c <;> first | rfl | cases h

/-- Every legal command answers a next state, one of the listed effects: no fault, no refusal. -/
theorem exec_effect {i : Instr} (hi : i.isIllegal = false) (s : State) : ∃ t, exec i s = .next t ∧ CommandEffect s t := by
  have hu : ∃ t, encryptUnsupported s = .next t ∧ CommandEffect s t :=
    ⟨_, encryptUnsupported_eq s, .raised _⟩
  cases i with
  | derive =>
    show ∃ t, execDerive s = .next t ∧ CommandEffect s t
    rcases execDerive_cases s with ⟨-, h⟩ | ⟨-, -, h⟩ | ⟨-, -, -, h⟩
    · exact ⟨_, h, .derivationFailed _⟩
    · exact ⟨_, h, .derivationFailed _⟩
    · rcases deriveFrom_cases (s.memReadIn 0 s.len0) (s.memReadIn s.len0 s.len1) s with ⟨-, hd⟩ | ⟨-, hd⟩
      · exact ⟨_, h, hd ▸ .keyLoaded _⟩
      · exact ⟨_, h, hd ▸ .derivationFailed _⟩
  | decrypt =>
    show ∃ t, execDecrypt s = .next t ∧ CommandEffect s t
    rcases execDecrypt_cases s with ⟨-, h⟩ | ⟨-, -, h⟩ | ⟨-, -, -, h⟩ | ⟨-, -, -, -, h⟩ | ⟨-, -, -, iv, body, -, h⟩
    · exact ⟨_, h, .raised _⟩
    · exact ⟨_, h, .raised _⟩
    · cases hv : legacyVerdict s.key (s.memReadIn 0 s.len0) with
      | ok B => exact ⟨_, by rw [h, hv]; rfl, .finishedLegacy B⟩
      | error e => exact ⟨_, by rw [h, hv]; rfl, .raisedFmt _ e⟩
    · exact ⟨_, h, .raisedFmt _ _⟩
    · cases hv : framedVerdict s.key iv body with
      | ok B => exact ⟨_, by rw [h, hv]; rfl, .finishedFramed _ B⟩
      | error e => exact ⟨_, by rw [h, hv]; rfl, .raisedIv _ e⟩
  | encryptLegacy =>
    show ∃ t, encryptWith .legacy (legacyEncode s) s = .next t ∧ CommandEffect s t
    rcases encryptWith_cases .legacy (legacyEncode s) s with ⟨-, h⟩ | ⟨-, e, -, h⟩ | ⟨-, -, h⟩
    · exact ⟨_, h, .raised _⟩
    · exact ⟨_, h, .raisedFmt _ e⟩
    · exact ⟨_, h, .finishedLegacy _⟩
  | encryptFramed =>
    show ∃ t, encryptWith .framed (framedEncode s) s = .next t ∧ CommandEffect s t
    rcases encryptWith_cases .framed (framedEncode s) s with ⟨-, h⟩ | ⟨-, e, -, h⟩ | ⟨-, -, h⟩
    · exact ⟨_, h, .raised _⟩
    · exact ⟨_, h, .raisedFmt _ e⟩
    · rcases framedEncode_cases s (s.memReadIn 0 s.len0) with ⟨-, hf⟩ | ⟨hr, -, hf⟩ | ⟨-, -, hf⟩
      · exact ⟨_, h.trans hf, .requested⟩
      · exact ⟨_, h.trans hf, .waited hr⟩
      · exact ⟨_, h.trans hf, .finishedFramed s.trngData (framedPayload s.key s.draw16 (s.memReadIn 0 s.len0))⟩
  | illegal op fmt rsvd => cases hi
  | _ => exact hu

/-- No meaning faults or refuses. -/
theorem exec_next (i : Instr) (s : State) : ∃ t, exec i s = .next t := by
  cases hi : i.isIllegal with
  | true => exact ⟨_, exec_of_isIllegal hi s⟩
  | false =>
    obtain ⟨t, h, -⟩ := exec_effect hi s
    exact ⟨t, h⟩

/-- What a legal command answers is one of the listed effects. -/
theorem exec_cases {i : Instr} (hi : i.isIllegal = false) {s t : State} (h : exec i s = .next t) : CommandEffect s t := by
  obtain ⟨u, hu, he⟩ := exec_effect hi s
  rw [hu] at h
  cases h
  exact he

/-- No command changes what the host writes, the parameter, CTRL, the input lines, the answer of the last transaction or the
model's own fields (20_memory.md R73, 10_state.md R33 to R35). -/
theorem exec_frame {i : Instr} {s t : State} (h : exec i s = .next t) :
    t.bufBytes = s.bufBytes ∧ t.inBuf = s.inBuf ∧ t.inLen0 = s.inLen0 ∧ t.inLen1 = s.inLen1 ∧ t.ie = s.ie ∧
    t.trngValid = s.trngValid ∧ t.trngData = s.trngData ∧ t.rstN = s.rstN ∧ t.busResult = s.busResult ∧
    t.inputs = s.inputs ∧ t.resetEpoch = s.resetEpoch ∧ t.outDraws = s.outDraws := by
  cases hi : i.isIllegal with
  | true =>
    rw [exec_of_isIllegal hi] at h
    cases h
    exact ⟨rfl, rfl, rfl, rfl, rfl, rfl, rfl, rfl, rfl, rfl, rfl, rfl⟩
  | false => cases exec_cases hi h <;> exact ⟨rfl, rfl, rfl, rfl, rfl, rfl, rfl, rfl, rfl, rfl, rfl, rfl⟩

end Sys2Proof.Machine
end

