-- ==== Sys2Proof/Laws/Modes.lean ====
section
/-! SUPPORT. The laws of the hash, the modes and the units: the lengths of what they answer, the laws of the modes
(40_datapath_units.md R116), the marker test of DERIVE written out (R121), and the padding undone (R120). -/

namespace Sys2Proof.Machine

/-! ### The hash -/

theorem shaCompress_length {H : List Word} (h : H.length = 8) (B : Bytes) : (shaCompress H B).length = 8 := by
  simp [shaCompress, shaVarsList, h]

theorem shaBlocks_length (n : Nat) {H : List Word} (h : H.length = 8) (P : Bytes) : (shaBlocks n H P).length = 8 := by
  induction n generalizing H P with
  | zero => exact h
  | succ n ih => exact ih (shaCompress_length h _) _

theorem flatMap_be32_length (H : List Word) : (H.flatMap fun w => be32 w.toNat).length = 4 * H.length := by
  induction H with
  | nil => rfl
  | cons w H ih => rw [List.flatMap_cons, List.length_append, ih, be32_length, List.length_cons]; omega

/-- The digest has 32 bytes (R117). -/
@[simp] theorem sha256_length (M : Bytes) : (sha256 M).length = 32 := by
  rw [sha256, flatMap_be32_length, shaBlocks_length _ rfl]

/-- The temporary key has 16 bytes (R118). -/
@[simp] theorem tempKeyOf_length (M : Bytes) : (tempKeyOf M).length = 16 := by
  rw [tempKeyOf, slice_length (by simp)]

/-! ### The modes -/

theorem mapBlocks_length {f : Bytes → Bytes} (hf : ∀ b, (f b).length = 16) (n : Nat) (M : Bytes) :
    (mapBlocks f n M).length = 16 * n := by
  induction n generalizing M with
  | zero => rfl
  | succ n ih => rw [mapBlocks, List.length_append, hf, ih]; omega

/-- One block of the result of `mapBlocks` is `f` of that block. -/
theorem mapBlocks_block {f : Bytes → Bytes} (hf : ∀ b, (f b).length = 16) {n i : Nat} (hi : i < n) (M : Bytes) :
    ((mapBlocks f n M).drop (16 * i)).take 16 = f ((M.drop (16 * i)).take 16) := by
  induction n generalizing i M with
  | zero => omega
  | succ n ih =>
    cases i with
    | zero => rw [mapBlocks, List.drop_zero, List.drop_zero, List.take_left' (hf _)]
    | succ i =>
      rw [mapBlocks, Nat.mul_succ, Nat.add_comm, ← List.drop_drop, ← List.drop_drop, List.drop_left' (hf _),
        ih (by omega)]

/-- The empty string maps to itself in all four modes (R116). -/
@[simp] theorem ecbE_nil (k : Bytes) : ecbE k [] = [] := rfl
@[simp] theorem ecbD_nil (k : Bytes) : ecbD k [] = [] := rfl
@[simp] theorem cbcE_nil (k iv : Bytes) : cbcE k iv [] = [] := rfl
@[simp] theorem cbcD_nil (k iv : Bytes) : cbcD k iv [] = [] := rfl

section
variable {k : Bytes} (hk : k.length = 16)
include hk

/-- ECB_E answers whole blocks (R112, R116). -/
theorem ecbE_length (M : Bytes) : (ecbE k M).length = 16 * (M.length / 16) :=
  mapBlocks_length (aesE_length hk) _ _

/-- ECB_D answers whole blocks (R113, R116). -/
theorem ecbD_length (C : Bytes) : (ecbD k C).length = 16 * (C.length / 16) :=
  mapBlocks_length (aesD_length hk) _ _

theorem cbcEBlocks_length (n : Nat) (p M : Bytes) : (cbcEBlocks k n p M).length = 16 * n := by
  induction n generalizing p M with
  | zero => rfl
  | succ n ih => rw [cbcEBlocks, List.length_append, aesE_length hk, ih]; omega

/-- CBC_E answers whole blocks (R114, R116). -/
theorem cbcE_length (iv M : Bytes) : (cbcE k iv M).length = 16 * (M.length / 16) :=
  cbcEBlocks_length hk _ _ _

theorem cbcDBlocks_length {n : Nat} {p C : Bytes} (hp : p.length = 16) (hn : 16 * n ≤ C.length) :
    (cbcDBlocks k n p C).length = 16 * n := by
  induction n generalizing p C with
  | zero => rfl
  | succ n ih =>
    have hl : (C.take 16).length = 16 := by simp; omega
    rw [cbcDBlocks, List.length_append, xorBytes_length (by rw [aesD_length hk, hp]), aesD_length hk,
      ih hl (by simp; omega)]
    omega

/-- CBC_D answers whole blocks (R115, R116). -/
theorem cbcD_length {iv : Bytes} (hiv : iv.length = 16) (C : Bytes) :
    (cbcD k iv C).length = 16 * (C.length / 16) :=
  cbcDBlocks_length hk hiv (by omega)

/-- ECB, block by block: decryption undoes encryption (R116). -/
theorem mapBlocks_aesD_aesE (n : Nat) {M : Bytes} (h : M.length = 16 * n) :
    mapBlocks (aesD k) n (mapBlocks (aesE k) n M) = M := by
  induction n generalizing M with
  | zero => exact (List.eq_nil_of_length_eq_zero h).symm
  | succ n ih =>
    have hl : (M.take 16).length = 16 := by simp; omega
    rw [mapBlocks, mapBlocks, List.take_left' (aesE_length hk _), List.drop_left' (aesE_length hk _), aesD_aesE hk hl,
      ih (by simp; omega), List.take_append_drop]

/-- CBC, block by block: decryption undoes encryption (R116). -/
theorem cbcDBlocks_cbcEBlocks (n : Nat) {p M : Bytes} (hp : p.length = 16) (h : M.length = 16 * n) :
    cbcDBlocks k n p (cbcEBlocks k n p M) = M := by
  induction n generalizing p M with
  | zero => exact (List.eq_nil_of_length_eq_zero h).symm
  | succ n ih =>
    have hl : (M.take 16).length = 16 := by simp; omega
    have hx : (xorBytes (M.take 16) p).length = 16 := by rw [xorBytes_length (by omega), hl]
    rw [cbcEBlocks, cbcDBlocks, List.take_left' (aesE_length hk _), List.drop_left' (aesE_length hk _), aesD_aesE hk hx,
      xorBytes_cancel (by omega), ih (aesE_length hk _) (by simp; omega), List.take_append_drop]

/-- ECB decryption undoes ECB encryption (R116). -/
theorem ecbD_ecbE {M : Bytes} (hM : M.length % 16 = 0) : ecbD k (ecbE k M) = M := by
  rw [ecbD, ecbE_length hk, Nat.mul_div_cancel_left _ (by omega), ecbE, mapBlocks_aesD_aesE hk _ (by omega)]

/-- CBC decryption undoes CBC encryption (R116). -/
theorem cbcD_cbcE {iv M : Bytes} (hiv : iv.length = 16) (hM : M.length % 16 = 0) :
    cbcD k iv (cbcE k iv M) = M := by
  rw [cbcD, cbcE_length hk, Nat.mul_div_cancel_left _ (by omega), cbcE, cbcDBlocks_cbcEBlocks hk _ hiv (by omega)]

/-- Each block of ECB_E is the cipher of that block alone, so equal blocks give equal blocks (R112, R116). -/
theorem ecbE_block {M : Bytes} {i : Nat} (hi : i < M.length / 16) :
    ((ecbE k M).drop (16 * i)).take 16 = aesE k ((M.drop (16 * i)).take 16) :=
  mapBlocks_block (aesE_length hk) hi M

/-- With a zero IV the first CBC block is the first ECB block (R116). -/
theorem cbcE_zeroIv_firstBlock (M : Bytes) :
    (cbcE k (rep 0 16) M).take 16 = (ecbE k M).take 16 := by
  rw [cbcE, ecbE]
  cases M.length / 16 with
  | zero => rfl
  | succ n =>
    rw [cbcEBlocks, mapBlocks, List.take_left' (aesE_length hk _), List.take_left' (aesE_length hk _),
      xorBytes_zero (by simp)]

end

/-! ### The marker test of DERIVE -/

/-- MARKER_AT16 written out (R121). -/
theorem markerAt16_iff (D : Bytes) : markerAt16 D = true ↔ 29 ≤ D.length ∧ (D.drop 16).take 13 = marker := by
  simp [markerAt16, slice, List.drop_take]

/-- TK written out (R118). -/
theorem tempKeyOf_eq_take (mk : Bytes) : tempKeyOf mk = (sha256 mk).take 16 := by
  rw [tempKeyOf, slice_zero]

/-! ### Padding -/

/-- The padded string is the next multiple of 16 strictly longer (R119, R120). -/
theorem pad_length (M : Bytes) : (pad M).length = 16 * (M.length / 16 + 1) := by
  simp only [pad, rep, padCount, List.length_append, List.length_replicate]
  omega

/-- The padded string ends with its count (R120). -/
theorem pad_getLast? (M : Bytes) : (pad M).getLast? = some (BitVec.ofNat 8 (padCount M.length)) := by
  obtain ⟨n, hn⟩ : ∃ n, padCount M.length = n + 1 := ⟨padCount M.length - 1, by simp only [padCount]; omega⟩
  rw [pad, hn, rep, List.replicate_succ', ← List.append_assoc, List.getLast?_concat]

/-- Stripping the count undoes the padding (R120; 44_framed_codec.md R183). -/
theorem unpad_pad (M : Bytes) : unpad (pad M) = some M := by
  have hl : M.length + padCount M.length = (pad M).length := by simp [pad, rep]
  have hc : 1 ≤ padCount M.length ∧ padCount M.length ≤ 16 := by simp only [padCount]; omega
  have hv : (BitVec.ofNat 8 (padCount M.length)).toNat = padCount M.length := by
    rw [BitVec.toNat_ofNat]; omega
  have h0 : BitVec.ofNat 8 (padCount M.length) ≠ 0 := by
    intro h
    have := congrArg BitVec.toNat h
    rw [hv] at this
    simp at this
    omega
  rw [unpad, pad_getLast?]
  simp only
  rw [if_neg (by rw [hv]; exact fun h => h.elim h0 (by omega)), slice_zero, hv, ← hl, Nat.add_sub_cancel, pad,
    List.take_left]

end Sys2Proof.Machine
end

