-- ==== Sys2Proof/Laws/PerInstr.lean ====
section
/-! SUPPORT. Statements made of every instruction, one lemma a constructor. -/

namespace Sys2Proof.Laws.EncodingFields

/-- The fields of an instruction's command word are those of an illegal word exactly when the instruction is ILLEGAL
(30_encoding.md R90, R95). -/
def Statement (i : Instr) : Prop :=
  i.wf = true →
    illegalFields (cmdOp (encodeWord i)) (cmdFmt (encodeWord i)) (cmdRsvd (encodeWord i)) = i.isIllegal

/-- The fields of the word of three fields are those fields (R90). -/
theorem fields_cmdWord (op fmt : BitVec 4) (rsvd : BitVec 24) :
    cmdOp (cmdWord op fmt rsvd) = op ∧ cmdFmt (cmdWord op fmt rsvd) = fmt ∧ cmdRsvd (cmdWord op fmt rsvd) = rsvd := by
  refine ⟨?_, ?_, ?_⟩ <;> refine BitVec.eq_of_getLsbD_eq fun i hi => ?_
  · rw [cmdOp, cmdWord, BitVec.getLsbD_extractLsb', BitVec.getLsbD_append, if_pos (by omega)]
    simp [hi]
  · rw [cmdFmt, cmdWord, BitVec.getLsbD_extractLsb', BitVec.getLsbD_append, if_neg (by omega), BitVec.getLsbD_append,
      if_pos (by omega), show 4 + i - 4 = i by omega]
    simp [hi]
  · rw [cmdRsvd, cmdWord, BitVec.getLsbD_extractLsb', BitVec.getLsbD_append, if_neg (by omega), BitVec.getLsbD_append,
      if_neg (by omega), show 8 + i - 4 - 4 = i by omega]
    simp [hi]

theorem derive : Statement .derive := fun _ => by decide
theorem decrypt : Statement .decrypt := fun _ => by decide
theorem encryptLegacy : Statement .encryptLegacy := fun _ => by decide
theorem encryptFramed : Statement .encryptFramed := fun _ => by decide
theorem encryptUnsupportedFmt2 : Statement .encryptUnsupportedFmt2 := fun _ => by decide
theorem encryptUnsupportedFmt3 : Statement .encryptUnsupportedFmt3 := fun _ => by decide
theorem encryptUnsupportedFmt4 : Statement .encryptUnsupportedFmt4 := fun _ => by decide
theorem encryptUnsupportedFmt5 : Statement .encryptUnsupportedFmt5 := fun _ => by decide
theorem encryptUnsupportedFmt6 : Statement .encryptUnsupportedFmt6 := fun _ => by decide
theorem encryptUnsupportedFmt7 : Statement .encryptUnsupportedFmt7 := fun _ => by decide
theorem encryptUnsupportedFmt8 : Statement .encryptUnsupportedFmt8 := fun _ => by decide
theorem encryptUnsupportedFmt9 : Statement .encryptUnsupportedFmt9 := fun _ => by decide
theorem encryptUnsupportedFmt10 : Statement .encryptUnsupportedFmt10 := fun _ => by decide
theorem encryptUnsupportedFmt11 : Statement .encryptUnsupportedFmt11 := fun _ => by decide
theorem encryptUnsupportedFmt12 : Statement .encryptUnsupportedFmt12 := fun _ => by decide
theorem encryptUnsupportedFmt13 : Statement .encryptUnsupportedFmt13 := fun _ => by decide
theorem encryptUnsupportedFmt14 : Statement .encryptUnsupportedFmt14 := fun _ => by decide
theorem encryptUnsupportedFmt15 : Statement .encryptUnsupportedFmt15 := fun _ => by decide
theorem illegal (op fmt : BitVec 4) (rsvd : BitVec 24) : Statement (.illegal op fmt rsvd) := fun h => by
  obtain ⟨h1, h2, h3⟩ := fields_cmdWord op fmt rsvd
  rw [encodeWord, h1, h2, h3]
  exact h

end Sys2Proof.Laws.EncodingFields
end

