-- ==== Sys2Proof/Laws/Step.lean ====
section
/-! SUPPORT. What a bus transaction, a turn of the engine and a step can do, each said once. -/

namespace Sys2Proof.Machine

/-! ### The address map -/

/-- An address that reaches a word of the IN_BUF window is word-aligned and within the buffer (R62 to R64). -/
theorem placeOf_inBuf {n o : Nat} {a : Addr} (h : placeOf n a = some (.inBuf o)) :
    a.toNat = inBufBase + o ∧ o < n ∧ o % 4 = 0 := by
  simp only [placeOf] at h
  split at h
  · cases h
  · next h4 =>
    split at h
    · cases hr : regAt a.toNat with
      | none => rw [hr] at h; cases h
      | some r => rw [hr] at h; cases h
    · next hlo =>
      split at h
      · split at h
        · next hn =>
          simp only [Option.some.injEq, Place.inBuf.injEq] at h
          have hb : inBufBase = 65536 := rfl
          omega
        · cases h
      · split at h
        · split at h <;> cases h
        · cases h

/-- An address that reaches a word of the OUT_BUF window is word-aligned and within the buffer (R62 to R64). -/
theorem placeOf_outBuf {n o : Nat} {a : Addr} (h : placeOf n a = some (.outBuf o)) :
    a.toNat = outBufBase + o ∧ o < n ∧ o % 4 = 0 := by
  simp only [placeOf] at h
  split at h
  · cases h
  · next h4 =>
    split at h
    · cases hr : regAt a.toNat with
      | none => rw [hr] at h; cases h
      | some r => rw [hr] at h; cases h
    · next hlo =>
      split at h
      · split at h <;> cases h
      · next hmid =>
        split at h
        · split at h
          · next hn =>
            simp only [Option.some.injEq, Place.outBuf.injEq] at h
            have hb : inBufBase = 65536 := rfl
            have hc : outBufBase = 131072 := rfl
            omega
          · cases h
        · cases h

/-- The register block holds exactly the twelve registers, at their offsets (R28). -/
theorem regAt_regOffset (r : Reg) : regAt (regOffset r) = some r := by
  cases r <;> rfl

/-- The address of a register reaches it (R28). -/
theorem placeOf_regAddr (n : Nat) (r : Reg) : placeOf n (BitVec.ofNat 18 (regOffset r)) = some (.reg r) := by
  cases r <;> rfl

/-! ### Bus transactions -/

/-- The states a bus transaction can end in. -/
inductive BusEffect (s : State) : State → Prop where
  /-- Nothing but an answer: a read, a refused access, a write to a read-only place. -/
  | answered (r : BusResult) : BusEffect s (s.answered r)
  /-- A read of the OUT_BUF window. -/
  | readOut (r : BusResult) : BusEffect s (s.drewWord.answered r)
  /-- A write of CTRL. -/
  | ctrl (w : Word) : BusEffect s ((s.ctrlWritten w).answered (.write .okay))
  /-- A write of STATUS. -/
  | status (b : Bool) (w : Word) : BusEffect s ((s.statusWritten b w).answered (.write .okay))
  /-- A write of IN_LEN0 while IDLE. -/
  | inLen0 (w : Word) (h : s.seq = .idle) : BusEffect s ((s.inLen0Written w).answered (.write .okay))
  /-- A write of IN_LEN1 while IDLE. -/
  | inLen1 (w : Word) (h : s.seq = .idle) : BusEffect s ((s.inLen1Written w).answered (.write .okay))
  /-- A write of a word of IN_BUF while IDLE. -/
  | inBuf (o : Nat) (w : Word) (h : s.seq = .idle) (ho : o < s.bufBytes ∧ o % 4 = 0) :
      BusEffect s ((s.inWordWritten o w).answered (.write .okay))
  /-- The acceptance of a legal command word while IDLE. -/
  | accepted (c : Instr) (h : s.seq = .idle) (hc : c.isIllegal = false) :
      BusEffect s ((s.answered (.write .okay)).accepted c)
  /-- An illegal command word while IDLE. -/
  | illegal (h : s.seq = .idle) : BusEffect s ((s.answered (.write .okay)).illegalCompleted)

theorem operandWrite_cases (f : State → State) (s : State) :
    (s.seq = .idle ∧ s.operandWrite f = (f s).answered (.write .okay)) ∨
    ((∃ c, s.seq = .busy c) ∧ s.operandWrite f = s.answered (.write .error)) := by
  cases h : s.seq with
  | idle => exact .inl ⟨rfl, by rw [State.operandWrite, h]⟩
  | busy c => exact .inr ⟨⟨c, rfl⟩, by rw [State.operandWrite, h]⟩

/-- What a CMD write can do (R150). -/
theorem issueCommand_cases (w : Word) (s : State) :
    ((∃ c, s.seq = .busy c) ∧ issueCommand w s = .next (s.answered (.write .error))) ∨
    (s.seq = .idle ∧ (decodeWord w).isIllegal = true ∧
      issueCommand w s = .next (s.answered (.write .okay)).illegalCompleted) ∨
    (s.seq = .idle ∧ (decodeWord w).isIllegal = false ∧
      issueCommand w s = .next ((s.answered (.write .okay)).accepted (decodeWord w))) := by
  cases h : s.seq with
  | busy c => exact .inl ⟨⟨c, rfl⟩, by rw [issueCommand, h]⟩
  | idle =>
    cases hc : (decodeWord w).isIllegal with
    | true =>
      refine .inr (.inl ⟨rfl, rfl, ?_⟩)
      rw [issueCommand, h]
      simp only [hc, if_true, exec_of_isIllegal hc]
    | false =>
      refine .inr (.inr ⟨rfl, rfl, ?_⟩)
      rw [issueCommand, h]
      simp only [hc]
      rfl

/-- What a read can do: the answer, and nothing else but the count of free bytes (R69). -/
theorem busRead_cases (a : Addr) (s : State) :
    ∃ r, s.busRead a = s.answered r ∨ s.busRead a = s.drewWord.answered r := by
  cases h : placeOf s.bufBytes a with
  | none => exact ⟨_, .inl (by rw [State.busRead, h])⟩
  | some p =>
    cases p with
    | reg r => exact ⟨_, .inl (by rw [State.busRead, h])⟩
    | inBuf o => exact ⟨_, .inl (by rw [State.busRead, h])⟩
    | outBuf o => exact ⟨_, .inr (by rw [State.busRead, h])⟩

/-- What a write can do (R66, R67). -/
theorem busWrite_effect (b : Bool) (a : Addr) (w : Word) (s : State) :
    ∃ t, busWrite b a w s = .next t ∧ BusEffect s t := by
  cases h : placeOf s.bufBytes a with
  | none => exact ⟨_, by rw [busWrite, h], .answered _⟩
  | some p =>
    cases p with
    | inBuf o =>
      refine ⟨_, by rw [busWrite, h], ?_⟩
      rcases operandWrite_cases (State.inWordWritten o w) s with ⟨hi, he⟩ | ⟨-, he⟩
      · exact he ▸ .inBuf o w hi (placeOf_inBuf h).2
      · exact he ▸ .answered _
    | outBuf o => exact ⟨_, by rw [busWrite, h], .answered _⟩
    | reg r =>
      have e : busWrite b a w s = writeReg b r w s := by rw [busWrite, h]
      rw [e]
      cases r with
      | ctrl => exact ⟨_, rfl, .ctrl w⟩
      | status => exact ⟨_, rfl, .status b w⟩
      | cmd =>
        rcases issueCommand_cases w s with ⟨-, hi⟩ | ⟨hs, -, hi⟩ | ⟨hs, hc, hi⟩
        · exact ⟨_, hi, .answered _⟩
        · exact ⟨_, hi, .illegal hs⟩
        · exact ⟨_, hi, .accepted _ hs hc⟩
      | inLen0 =>
        refine ⟨_, rfl, ?_⟩
        rcases operandWrite_cases (State.inLen0Written w) s with ⟨hi, he⟩ | ⟨-, he⟩
        · exact he ▸ .inLen0 w hi
        · exact he ▸ .answered _
      | inLen1 =>
        refine ⟨_, rfl, ?_⟩
        rcases operandWrite_cases (State.inLen1Written w) s with ⟨hi, he⟩ | ⟨-, he⟩
        · exact he ▸ .inLen1 w hi
        · exact he ▸ .answered _
      | id => exact ⟨_, rfl, .answered _⟩
      | outLen => exact ⟨_, rfl, .answered _⟩
      | bufSize => exact ⟨_, rfl, .answered _⟩
      | iv0 => exact ⟨_, rfl, .answered _⟩
      | iv1 => exact ⟨_, rfl, .answered _⟩
      | iv2 => exact ⟨_, rfl, .answered _⟩
      | iv3 => exact ⟨_, rfl, .answered _⟩

/-- What a bus transaction does outside reset: it is answered, with one of the listed effects. -/
theorem busTransaction_effect (b : Bool) (x : BusTx) {s : State} (hr : s.rstN = true) :
    ∃ t, busTransaction b x s = .next t ∧ BusEffect s t := by
  cases x with
  | read a =>
    refine ⟨s.busRead a, by simp [busTransaction, hr], ?_⟩
    obtain ⟨r, h | h⟩ := busRead_cases a s
    · exact h ▸ .answered r
    · exact h ▸ .readOut r
  | write a w =>
    obtain ⟨t, h, he⟩ := busWrite_effect b a w s
    exact ⟨t, by simpa [busTransaction, hr] using h, he⟩

/-- A bus transaction that is answered came outside reset and has one of the listed effects (R270, U13). -/
theorem busTransaction_cases {b : Bool} {x : BusTx} {s t : State} (h : busTransaction b x s = .next t) :
    s.rstN = true ∧ BusEffect s t := by
  cases hr : s.rstN with
  | false => simp [busTransaction, hr] at h
  | true =>
    obtain ⟨u, hu, he⟩ := busTransaction_effect b x hr
    rw [hu] at h
    cases h
    exact ⟨rfl, he⟩

/-! ### The engine -/

/-- What a turn of the engine can do: nothing while IDLE or in reset, else the accepted command (R264, R270, R77). -/
theorem engineTurn_cases {s t : State} (h : engineTurn s = .next t) :
    (t = s ∧ (s.rstN = false ∨ s.seq = .idle)) ∨
    (s.rstN = true ∧ ∃ c, s.seq = .busy c ∧ c.isIllegal = false ∧ exec c s = .next t) := by
  cases hr : s.rstN with
  | false => rw [engineTurn, if_pos (by simp [hr])] at h; cases h; exact .inl ⟨rfl, .inl rfl⟩
  | true =>
    rw [engineTurn, if_neg (by simp [hr])] at h
    cases hq : s.seq with
    | idle => rw [hq] at h; cases h; exact .inl ⟨rfl, .inr rfl⟩
    | busy c =>
      rw [hq] at h
      cases hc : c.isIllegal with
      | true => simp [hc] at h
      | false => exact .inr ⟨rfl, c, rfl, hc, by simpa [hc] using h⟩

/-! ### One step -/

/-- The moves a step can be made of. -/
inductive StepEffect (s : State) : State → Prop where
  /-- A turn of the engine. -/
  | engine {t : State} (h : engineTurn s = .next t) : StepEffect s t
  /-- A bus transaction between engine steps. -/
  | bus {x : BusTx} {t : State} (h : busTransaction false x s = .next t) : StepEffect s t
  /-- A turn of the engine with a transaction in the same cycle. -/
  | engineAnd {x : BusTx} {t u : State} (h : engineTurn s = .next t)
      (hb : busTransaction (completedIn s t) x t = .next u) : StepEffect s u
  /-- The TRNG drives its lines. -/
  | trng (v : Bool) (d : Block) : StepEffect s (s.trngDriven v d)
  /-- The reset line is driven. -/
  | rst (level : Bool) : StepEffect s (s.resetDriven level)

/-- What a step can do: one move, made from the state with that move taken from the list. -/
theorem step_cases {s t : State} (h : step s = .next t) :
    ∃ l, StepEffect (s.withInputs l) t := by
  cases hi : s.inputs with
  | nil =>
    rw [step, hi] at h
    refine ⟨[], ?_⟩
    have he : s.withInputs [] = s := by simp only [State.withInputs, ← hi]
    rw [he]
    exact .engine h
  | cons i rest =>
    rw [step, hi] at h
    refine ⟨rest, ?_⟩
    cases i with
    | bus x => exact .bus h
    | engine => exact .engine h
    | trng v d => cases h; exact .trng v d
    | rst level => cases h; exact .rst level
    | engineAnd x =>
      have h' : engineAndBus x (s.withInputs rest) = .next t := h
      rw [engineAndBus] at h'
      cases hq : engineTurn (s.withInputs rest) with
      | next u => rw [hq] at h'; exact .engineAnd hq h'
      | fault r => rw [hq] at h'; cases h'
      | refused r => rw [hq] at h'; cases h'

end Sys2Proof.Machine
end

