-- ==== Sys2Proof/Tests/Slice0.lean ====
section
/-! SUPPORT. The package's own tests: ill-formed terms, words decoded, the vectors of 95_test_vectors.md run one step each, and
for each statement with hypotheses a concrete state and operands that meet them together. Expected values are the spec's, which
each docstring names. -/

namespace Sys2Proof.Tests

open Sys2Proof.Machine

set_option Elab.async false

/-! ### Helpers -/

/-- The `k` bytes of a number, most significant first: a hexadecimal literal read as the byte string it spells. -/
def hexBytes : Nat → Nat → Bytes
  | 0, _ => []
  | k + 1, n => hexBytes k (n / 256) ++ [BitVec.ofNat 8 n]

/-- CK, the key of the vectors (95_test_vectors.md section 3). -/
def ck : Bytes := hexBytes 16 0x2b7e151628aed2a6abf7158809cf4f3c

/-- IVA, the first draw of the vectors (section 6). -/
def iva : Bytes := hexBytes 16 0x000102030405060708090a0b0c0d0e0f

/-- `jenkins`. -/
def jenkins : Bytes := hexBytes 7 0x6a656e6b696e73

/-- The output of V-LEG-E1. -/
def legE1 : Bytes := hexBytes 32 0xd0ec44d5b8282f9fb4f793c49d9f0d78d28be7153dc5201c5027d5ddca93b5cd

/-- `test encrypted text`. -/
def testText : Bytes := hexBytes 19 0x7465737420656e637279707465642074657874

/-- F, the output of V-FRM-E1. -/
def frmE1 : Bytes :=
  [0x01] ++ hexBytes 8 0x0000001000000020 ++ iva ++
    hexBytes 32 0xf800d5d0c12e4671a48f1b9b2b4880ad0318068934ed61c395d43b9e2d8716b8

/-- The key pair of V-KDF-9: master key `k` and its Hudson secret key. -/
def hsk9 : Bytes := hexBytes 32 0xcb49fc30f149726811c68a96c3b1dafa2d88f301bb9ee130bb096f90735886ad

/-- A frame of V-FRM-D8 to D15: IV length 16, the given body, IVA. -/
def frameD (body : Bytes) : Bytes :=
  [0x01] ++ hexBytes 4 0x10 ++ be32 body.length ++ iva ++ body

/-- After reset, with buffers of `n` bytes. -/
def base (n : Nat) : State := { State.reset with bufBytes := n }

/-- KEYED with CK, IN_BUF and IN_LEN0 holding `M`, and a draw waiting to be asked for. -/
def loaded (n : Nat) (M : Bytes) : State :=
  { State.reset with bufBytes := n, kstate := .keyed, cipherKey := blockOfBytes ck, inLen0 := BitVec.ofNat 32 M.length,
                     inBuf := Memory.writeBytes [] 0 M }

/-- UNKEYED, IN_BUF and the lengths holding a key pair. -/
def pair (n : Nat) (mk hsk : Bytes) : State :=
  { State.reset with bufBytes := n, inLen0 := BitVec.ofNat 32 mk.length, inLen1 := BitVec.ofNat 32 hsk.length,
                     inBuf := Memory.writeBytes [] 0 (mk ++ hsk) }

/-- The draw `iv` requested and delivered. -/
def drawn (iv : Bytes) (s : State) : State :=
  { s with trngReq := true, trngValid := true, trngData := blockOfBytes iv }

/-- A command running. -/
def busy (c : Instr) (s : State) : State := { s with seq := .busy c }

/-- The next moves of the outside world. -/
def moves (l : List Input) (s : State) : State := { s with inputs := l }

/-- Whether an outcome is a next state of which `p` holds. -/
def next (o : Out) (p : State → Bool) : Bool :=
  match o with
  | .next t => p t
  | .fault _ => false
  | .refused _ => false

/-- Whether a state shows a completion with code `e` and output `B`. -/
def ended (e : ErrCode) (B : Bytes) (t : State) : Bool :=
  t.seq == .idle && t.done && t.err == e && t.outLen == BitVec.ofNat 32 B.length && !t.trngReq &&
    (List.range (B.length + 1)).map t.outByte == B.map some ++ [none]

/-- An outcome that is a next state with a property. -/
theorem next_iff {o : Out} {p : State → Bool} (h : next o p = true) : ∃ t, o = .next t ∧ p t = true := by
  cases o with
  | next t => exact ⟨t, rfl, h⟩
  | fault r => cases h
  | refused r => cases h

/-! ### Well-formedness: an ill-formed term for each check (R95) -/

theorem test_wf_refuses_derive_word : (Instr.illegal 1 0 0).wf = false := by decide
theorem test_wf_refuses_decrypt_word : (Instr.illegal 2 0 0).wf = false := by decide
theorem test_wf_refuses_encrypt_words : ∀ f : BitVec 4, (Instr.illegal 3 f 0).wf = false := by decide
theorem test_wf_accepts_reserved_bits : (Instr.illegal 3 1 1).wf = true := by decide
theorem test_wf_accepts_unknown_op : (Instr.illegal 15 0 0).wf = true := by decide
theorem test_wf_accepts_format_on_derive : (Instr.illegal 1 15 0).wf = true := by decide

/-! ### Decoding: the words written out from R90, R94 and R95, RSVD | FMT | OP -/

theorem test_decode_derive : decodeWord 0b000000000000000000000000_0000_0001 = .derive := by decide
theorem test_decode_decrypt : decodeWord 0b000000000000000000000000_0000_0010 = .decrypt := by decide
theorem test_decode_encryptLegacy : decodeWord 0b000000000000000000000000_0000_0011 = .encryptLegacy := by decide
theorem test_decode_encryptFramed : decodeWord 0b000000000000000000000000_0001_0011 = .encryptFramed := by decide
theorem test_decode_fmt2 : decodeWord 0b000000000000000000000000_0010_0011 = .encryptUnsupportedFmt2 := by decide
theorem test_decode_fmt3 : decodeWord 0b000000000000000000000000_0011_0011 = .encryptUnsupportedFmt3 := by decide
theorem test_decode_fmt4 : decodeWord 0b000000000000000000000000_0100_0011 = .encryptUnsupportedFmt4 := by decide
theorem test_decode_fmt5 : decodeWord 0b000000000000000000000000_0101_0011 = .encryptUnsupportedFmt5 := by decide
theorem test_decode_fmt6 : decodeWord 0b000000000000000000000000_0110_0011 = .encryptUnsupportedFmt6 := by decide
theorem test_decode_fmt7 : decodeWord 0b000000000000000000000000_0111_0011 = .encryptUnsupportedFmt7 := by decide
theorem test_decode_fmt8 : decodeWord 0b000000000000000000000000_1000_0011 = .encryptUnsupportedFmt8 := by decide
theorem test_decode_fmt9 : decodeWord 0b000000000000000000000000_1001_0011 = .encryptUnsupportedFmt9 := by decide
theorem test_decode_fmt10 : decodeWord 0b000000000000000000000000_1010_0011 = .encryptUnsupportedFmt10 := by decide
theorem test_decode_fmt11 : decodeWord 0b000000000000000000000000_1011_0011 = .encryptUnsupportedFmt11 := by decide
theorem test_decode_fmt12 : decodeWord 0b000000000000000000000000_1100_0011 = .encryptUnsupportedFmt12 := by decide
theorem test_decode_fmt13 : decodeWord 0b000000000000000000000000_1101_0011 = .encryptUnsupportedFmt13 := by decide
theorem test_decode_fmt14 : decodeWord 0b000000000000000000000000_1110_0011 = .encryptUnsupportedFmt14 := by decide
theorem test_decode_fmt15 : decodeWord 0b000000000000000000000000_1111_0011 = .encryptUnsupportedFmt15 := by decide

/-- V-ERR-6 to V-ERR-9: OP = 4, DERIVE with FMT = 1, RSVD ≠ 0, and the words 0x0 and 0xF. -/
theorem test_decode_illegal :
    decodeWord 0b000000000000000000000000_0000_0100 = .illegal 4 0 0 ∧
    decodeWord 0b000000000000000000000000_0001_0001 = .illegal 1 1 0 ∧
    decodeWord 0b000000000000000000000001_0000_0011 = .illegal 3 0 1 ∧
    decodeWord 0b000000000000000000000000_0000_0000 = .illegal 0 0 0 ∧
    decodeWord 0b000000000000000000000000_0000_1111 = .illegal 15 0 0 := by decide

/-- A command word is four bytes, the byte of bits 7:0 first; fewer are refused by name. -/
theorem test_decode_bytes :
    (match decode [0x13, 0, 0, 0, 0xAA] with | .ok (i, r) => i == .encryptFramed && r == [0xAA] | .error _ => false) = true ∧
    (match decode [0x13, 0, 0] with | .ok _ => false | .error e => e == .shortWord 3) = true := by decide

/-! ### The units (95_test_vectors.md section 2) -/

/-- V-AES-1 and V-AES-2 (FIPS-197 C.1). -/
theorem test_aes :
    aesE (hexBytes 16 0x000102030405060708090a0b0c0d0e0f) (hexBytes 16 0x00112233445566778899aabbccddeeff) =
      hexBytes 16 0x69c4e0d86a7b0430d8cdb78070b4c55a ∧
    aesD (hexBytes 16 0x000102030405060708090a0b0c0d0e0f) (hexBytes 16 0x69c4e0d86a7b0430d8cdb78070b4c55a) =
      hexBytes 16 0x00112233445566778899aabbccddeeff := by decide +kernel

/-- V-AES-3: round keys 1 and 10 of CK. -/
theorem test_key_expansion :
    roundKey (keyWords ck) 1 = hexBytes 16 0xa0fafe1788542cb123a339392a6c7605 ∧
    roundKey (keyWords ck) 10 = hexBytes 16 0xd014f9a8c9ee2589e13f0cc8b6630ca6 := by decide +kernel

/-- V-ECB-1, V-ECB-2. -/
theorem test_ecb :
    ecbE ck (hexBytes 16 0x6bc1bee22e409f96e93d7e117393172a) = hexBytes 16 0x3ad77bb40d7a3660a89ecaf32466ef97 ∧
    ecbD ck (rep 0 32) = hexBytes 32 0xadb637514cca3992242cd8b75dbd0ad5adb637514cca3992242cd8b75dbd0ad5 := by
  decide +kernel

/-- V-CBC-1. -/
theorem test_cbc :
    cbcE ck iva (hexBytes 32 0x6bc1bee22e409f96e93d7e117393172aae2d8a571e03ac9c9eb76fac45af8e51) =
      hexBytes 32 0x7649abac8119b246cee98e9b12e9197d5086cb9b507219ee95db113a917678b2 := by decide +kernel

/-- V-SHA-1, V-SHA-2. -/
theorem test_sha256 :
    sha256 [] = hexBytes 32 0xe3b0c44298fc1c149afbf4c8996fb92427ae41e4649b934ca495991b7852b855 ∧
    sha256 [0x61, 0x62, 0x63] = hexBytes 32 0xba7816bf8f01cfea414140de5dae2223b00361a396177a9cb410ff61f20015ad := by
  decide +kernel

/-- V-PAD-1 to V-PAD-4. -/
theorem test_pad :
    pad [] = rep 0x10 16 ∧ pad (rep 0x61 15) = rep 0x61 15 ++ [0x01] ∧ pad (rep 0x61 16) = rep 0x61 16 ++ rep 0x10 16 ∧
    pad jenkins = jenkins ++ rep 0x09 9 := by decide

/-- V-MRK-1 to V-MRK-4. -/
theorem test_marker :
    findMarker (marker ++ [0x3A]) = some 0 ∧ findMarker (rep 0x78 3 ++ marker ++ marker) = some 3 ∧
    findMarker (marker.take 12) = none ∧ markerAt16 (ck ++ marker ++ rep 0x03 3) = true := by decide

/-- V-UTF-1, V-UTF-2. -/
theorem test_utf8 :
    ([[], [0x41], [0x00], [0xc2, 0x80], [0xe0, 0xa0, 0x80], [0xed, 0x9f, 0xbf], [0xef, 0xbb, 0xbf],
      [0xf0, 0x90, 0x80, 0x80], [0xf4, 0x8f, 0xbf, 0xbf]].all utf8OK) = true ∧
    ([[0xc1, 0xbf], [0xe0, 0x9f, 0x80], [0xed, 0xa0, 0x80], [0xf4, 0x90, 0x80, 0x80], [0xf5], [0x80], [0xc3],
      [0xc3, 0x28]].all (!utf8OK ·)) = true := by decide

/-! ### The commands: one step each -/

/-- V-KDF-9: the pair derives CK; STATUS is 0x06. -/
theorem test_derive_loads_key :
    next (exec .derive (pair 64 [0x6B] hsk9)) (fun t =>
      ended .ok [] t && t.kstate == .keyed && blockBytes t.cipherKey == ck && t.tempKey == 0 && t.statusWord == 0x06) =
      true := by decide +kernel

/-- V-KDF-10 in the form of V-KDF-6: a Hudson secret key of 40 bytes, when KEYED, fails and loses the key; STATUS is 0x10A. -/
theorem test_derive_failure_loses_key :
    next (exec .derive { pair 96 [0x6B] (hsk9 ++ rep 0 8) with kstate := .keyed, cipherKey := blockOfBytes ck }) (fun t =>
      ended .kdf [] t && t.kstate == .failed && t.cipherKey == 0 && t.statusWord == 0x10A) = true := by decide +kernel

/-- V-LEG-D1: the first payload returns `jenkins`. V-LEG-D3: 32 zero bytes hold no marker. -/
theorem test_decrypt_legacy :
    next (exec .decrypt (loaded 64 legE1)) (fun t => ended .ok jenkins t && t.fmtUsed == .legacy && t.ivReg == 0) =
      true ∧
    next (exec .decrypt (loaded 64 (rep 0 32))) (fun t => ended .integrity [] t && t.fmtUsed == .legacy) = true := by
  decide +kernel

/-- V-FRM-D1: F returns its text, FMT_USED = 1, IV_REG = IVA. V-FRM-D11: the padding bytes are not checked. V-DET-3: a Legacy
payload whose first byte is 1 is read as a frame. -/
theorem test_decrypt_framed :
    next (exec .decrypt (loaded 64 frmE1)) (fun t =>
      ended .ok testText t && t.fmtUsed == .framed && blockBytes t.ivReg == iva) = true ∧
    next (exec .decrypt (loaded 64 (frameD (hexBytes 16 0x0b0fb5fbe7e08d464fff50a3cbee9c8f)))) (fun t =>
      ended .ok (hexBytes 5 0x68656c6c6f ++ rep 0x09 8) t && blockBytes t.ivReg == iva) = true ∧
    next (exec .decrypt (loaded 64 (hexBytes 32 0x01d5c861d3e262f0e292b3c888d0e4b7caf2130049d16d8e0f36f34fcef003de)))
      (fun t => ended .malformed [] t && t.fmtUsed == .framed && t.ivReg == 0) = true := by decide +kernel

/-- V-LEG-E1. -/
theorem test_encryptLegacy :
    next (exec .encryptLegacy (loaded 64 jenkins)) (fun t => ended .ok legE1 t && t.fmtUsed == .legacy) = true := by
  decide +kernel

/-- V-LEN-3: 51 bytes need 80 bytes of output, more than BUF_BYTES = 64. -/
theorem test_encryptLegacy_too_long :
    next (exec .encryptLegacy (loaded 64 (rep 0x61 51))) (fun t => ended .length [] t && t.fmtUsed == .legacy) = true := by
  decide +kernel

/-- V-FRM-E1, at the turn in which the draw is there. -/
theorem test_encryptFramed :
    next (exec .encryptFramed (drawn iva (loaded 64 testText))) (fun t =>
      ended .ok frmE1 t && t.fmtUsed == .framed && blockBytes t.ivReg == iva) = true := by decide +kernel

/-- V-FRM-E6: a plaintext that is not UTF-8 asks for no draw; FMT_USED = 1, IV_REG as it was. -/
theorem test_encryptFramed_not_utf8 :
    next (exec .encryptFramed (loaded 64 [0xc3, 0x28])) (fun t =>
      ended .decoding [] t && t.fmtUsed == .framed && t.ivReg == 0) = true := by decide +kernel

/-- The fourteen unsupported formats. -/
def unsupported : List Instr :=
  [.encryptUnsupportedFmt2, .encryptUnsupportedFmt3, .encryptUnsupportedFmt4, .encryptUnsupportedFmt5,
   .encryptUnsupportedFmt6, .encryptUnsupportedFmt7, .encryptUnsupportedFmt8, .encryptUnsupportedFmt9,
   .encryptUnsupportedFmt10, .encryptUnsupportedFmt11, .encryptUnsupportedFmt12, .encryptUnsupportedFmt13,
   .encryptUnsupportedFmt14, .encryptUnsupportedFmt15]

/-- V-ERR-3 for each: E_UNSUPPORTED when KEYED. V-ERR-4 for each: E_NOT_KEYED first when not, STATUS 0x602. -/
theorem test_encryptUnsupported :
    (unsupported.all fun i => next (exec i (loaded 64 [])) fun t => ended .unsupported [] t && t.fmtUsed == .legacy) =
      true ∧
    (unsupported.all fun i => next (exec i (base 64)) fun t => ended .notKeyed [] t && t.statusWord == 0x602) = true := by
  decide +kernel

/-- V-ERR-6: the word 4 written to CMD after reset; STATUS is 0x802, and SEQ stays IDLE. -/
theorem test_illegal :
    next (step (moves [.bus (.write 0x008 4)] (base 64))) (fun t =>
      ended .illegal [] t && t.statusWord == 0x802 && t.busResult == .write .okay) = true := by decide +kernel

/-! ### The bus (95_test_vectors.md section 8) -/

/-- V-BUS-1 to V-BUS-3 and V-BUS-9. -/
theorem test_bus_reads :
    next (step (moves [.bus (.read 0x00E)] (base 64))) (fun t => t.busResult == .read 0 .error) = true ∧
    next (step (moves [.bus (.read 0x030)] (base 64))) (fun t => t.busResult == .read 0 .error) = true ∧
    next (step (moves [hostRdOut 64] (base 64))) (fun t => t.busResult == .read 0 .error) = true ∧
    next (step (moves [hostRd .cmd] (base 64))) (fun t => t.busResult == .read 0 .okay) = true := by decide

/-- V-BUS-4 to V-BUS-8. -/
theorem test_bus_writes :
    next (step (moves [hostWr .id 0x12345678] (base 64))) (fun t =>
      t.busResult == .write .okay && t.readReg .id == 0x4A550001) = true ∧
    next (step (moves [hostWr .status 0xFFFFFFFD] { base 64 with done := true })) (fun t => t.done) = true ∧
    next (step (moves [hostWr .status 2] { base 64 with done := true, err := .notKeyed })) (fun t =>
      !t.done && t.err == .notKeyed) = true ∧
    next (step (moves [hostWr .inLen0 5] (busy .decrypt (base 64)))) (fun t =>
      t.busResult == .write .error && t.inLen0 == 0) = true ∧
    next (step (moves [hostCmd .decrypt] (busy .derive (base 64)))) (fun t =>
      t.busResult == .write .error && t.seq == .busy .derive && t.err == .ok) = true := by decide

/-- V-BUS-10: the lanes of a word, in and out. -/
theorem test_bus_lanes :
    next (step (moves [hostWrIn 0 0x6B6E656A] (base 64))) (fun t =>
      t.inBuf == [(0, 0x6A), (1, 0x65), (2, 0x6E), (3, 0x6B)] && t.inWord 0 == 0x6B6E656A) = true ∧
    next (step (moves [hostRdOut 0] { base 64 with outLen := 4, outBuf := [(0, 0xD0), (1, 0xEC), (2, 0x44), (3, 0xD5)] }))
      (fun t => t.busResult == .read 0xD544ECD0 .okay) = true := by decide

/-- Program P3: the IV registers after V-FRM-D1, the interrupt, and the clear of DONE. -/
theorem test_iv_and_irq :
    next (step (moves [hostRd .iv0] { base 64 with ivReg := blockOfBytes iva })) (fun t =>
      t.busResult == .read 0x03020100 .okay) = true ∧
    next (step (moves [hostWr .ctrl 1] { base 64 with done := true })) (fun t => t.irq) = true ∧
    next (step (moves [hostWr .status 2] { base 64 with done := true, ie := true })) (fun t => !t.irq && t.ie) = true := by
  decide

/-- A reset in the middle of a command abandons it and loses the key (R272). -/
theorem test_reset_abandons :
    next (step (moves [.rst false] (busy .encryptFramed (drawn iva (loaded 64 testText))))) (fun t =>
      t.seq == .idle && t.kstate == .unkeyed && t.cipherKey == 0 && !t.trngReq && !t.done && !t.rstN) = true := by
  decide +kernel

/-- `LOADB` and `READB` of program P2 (R102): the words of `jenkins` and of their reads. -/
theorem test_host_notation :
    hostLoadB 0 jenkins = [hostWrIn 0 0x6B6E656A, hostWrIn 4 0x00736E69] ∧
    hostReadB 7 = [hostRdOut 0, hostRdOut 4] ∧ readBBytes 7 [0x6B6E656A, 0x00736E69] = jenkins ∧
    hostCmd .encryptFramed = .bus (.write 0x008 0x13) := by decide

/-! ### Witnesses: for each statement with hypotheses, a state and operands that meet them, each clause at its boundary -/

/-- Sound states of every kind the witnesses below use. -/
theorem witness_sound_states :
    (base 64).Inv ∧ (loaded 64 frmE1).Inv ∧ (busy .encryptFramed (drawn iva (loaded 64 testText))).Inv ∧
    (busy .decrypt (base 64)).Inv ∧ (base 64).resetAsserted.Inv :=
  ⟨by decide +kernel, by decide +kernel, by decide +kernel, by decide +kernel, by decide +kernel⟩

theorem witness_DecodeEncodeRoundTrip :
    Instr.derive.wf = true ∧ (Instr.illegal 1 1 0).wf = true ∧ (Instr.illegal 15 15 0xFFFFFF).wf = true := by decide +kernel

theorem witness_LegalWordsAreExactlyTheTable :
    Instr.derive.isIllegal = false ∧ Instr.encryptUnsupportedFmt15.isIllegal = false := by decide +kernel

theorem witness_StepRunsTheAcceptedCommand :
    (busy .decrypt (base 64)).rstN = true ∧ (busy .decrypt (base 64)).seq = .busy .decrypt ∧
    Instr.decrypt.isIllegal = false ∧ (busy .decrypt (base 64)).inputs = [] ∧
    (moves [.engine] (busy .decrypt (base 64))).inputs = .engine :: [] := by decide +kernel

theorem witness_CmdWriteIssuesCommand :
    (base 64).rstN = true ∧ (moves [.bus (.write 0x008 4)] (base 64)).inputs = .bus (.write 0x008 4) :: [] ∧
    (busy .derive (base 64)).seq.isBusy = true ∧ (base 64).seq = .idle ∧ (decodeWord 4).isIllegal = true ∧
    (decodeWord 0x13).isIllegal = false := by decide +kernel

theorem witness_FetchWordRunsTheDecodedInstruction :
    (decodeWord (BitVec.ofNat 32 0xF3)).isIllegal = false ∧
    (decodeWord (BitVec.ofNat 32 (2 ^ 32 - 1))).isIllegal = true := by decide +kernel

theorem witness_MisalignedAccessGetsError :
    (base 64).rstN = true ∧ (0x1 : Addr).toNat % 4 ≠ 0 ∧ (0x3FFFF : Addr).toNat % 4 ≠ 0 ∧
    (moves [.bus (.read 0x1)] (base 64)).inputs = .bus (.read 0x1) :: [] ∧
    (moves [.bus (.write 0x3FFFF 9)] (base 64)).inputs = .bus (.write 0x3FFFF 9) :: [] := by decide +kernel

/-- The first and the last address of each reserved range, with BUF_BYTES = 64. -/
theorem witness_ReservedOffsetGetsError :
    (base 64).rstN = true ∧
    (([0x30, 0x0FFFF, 0x10040, 0x1FFFF, 0x20040, 0x2FFFF, 0x30000, 0x3FFFF] : List Addr).all fun a =>
      decide ((0x30 ≤ a.toNat ∧ a.toNat < 0x10000) ∨
        (0x10000 + (base 64).bufBytes ≤ a.toNat ∧ a.toNat < 0x20000) ∨
        (0x20000 + (base 64).bufBytes ≤ a.toNat ∧ a.toNat < 0x30000) ∨ 0x30000 ≤ a.toNat)) = true ∧
    (moves [.bus (.read 0x30)] (base 64)).inputs = .bus (.read 0x30) :: [] ∧
    (moves [.bus (.write 0x30 1)] (base 64)).inputs = .bus (.write 0x30 1) :: [] := by decide +kernel

/-- The first and the last word of the OUT_BUF window among the read-only addresses. -/
theorem witness_ReadOnlyWritesAreIgnored :
    (base 64).rstN = true ∧ (moves [.bus (.write 0x018 7)] (base 64)).inputs = .bus (.write 0x018 7) :: [] ∧
    (([0x20000, 0x2003C] : List Addr).all fun a =>
      decide (a.toNat % 4 = 0 ∧ 0x20000 ≤ a.toNat ∧ a.toNat < 0x20000 + (base 64).bufBytes ∧ a.toNat < 0x30000)) = true ∧
    (moves [.bus (.read 0x008)] (base 64)).inputs = .bus (.read 0x008) :: [] := by decide +kernel

theorem witness_BusyRefusesOperandWrites :
    (busy .decrypt (base 64)).rstN = true ∧ (busy .decrypt (base 64)).seq.isBusy = true ∧
    (moves [.bus (.write 0x1003C 7)] (busy .decrypt (base 64))).inputs = .bus (.write 0x1003C 7) :: [] ∧
    (([0x10000, 0x1003C] : List Addr).all fun a =>
      decide (a.toNat % 4 = 0 ∧ 0x10000 ≤ a.toNat ∧ a.toNat < 0x10000 + (base 64).bufBytes ∧ a.toNat < 0x20000)) = true ∧
    (moves [.bus (.read 0x2003C)] (busy .decrypt (base 64))).inputs = .bus (.read 0x2003C) :: [] ∧
    (([0x000, 0x02C, 0x10000, 0x1003C, 0x20000, 0x2003C] : List Addr).all fun a =>
      decide (a.toNat % 4 = 0 ∧ (a.toNat < 0x30 ∨
        (0x10000 ≤ a.toNat ∧ a.toNat < 0x10000 + (base 64).bufBytes ∧ a.toNat < 0x20000) ∨
        (0x20000 ≤ a.toNat ∧ a.toNat < 0x20000 + (base 64).bufBytes ∧ a.toNat < 0x30000)))) = true := by decide +kernel

theorem witness_ReadsHaveNoSideEffect :
    (base 64).rstN = true ∧ (moves [.bus (.read 0x20000)] (base 64)).inputs = .bus (.read 0x20000) :: [] := by decide +kernel

/-- At the first and at the last word of the window; a stored byte read while BUSY. -/
theorem witness_InBufWordWriteThenRead :
    (moves [.bus (.read (BitVec.ofNat 18 (0x10000 + 60)))] (busy .decrypt (base 64))).inputs =
      .bus (.read (BitVec.ofNat 18 (0x10000 + 60))) :: [] ∧
    Memory.read ({ busy .decrypt (base 64) with inBuf := [(63, 7)] } : State).inBuf (60 + 3) = some 7 ∧
    (base 64).rstN = true ∧ (base 64).seq = .idle ∧ Config.validBufBytes (base 64).bufBytes = true ∧
    (∀ o ∈ [0, 60], o % 4 = 0 ∧ o < (base 64).bufBytes ∧
      (moves [.bus (.write (BitVec.ofNat 18 (0x10000 + o)) 0x6B6E656A), .bus (.read (BitVec.ofNat 18 (0x10000 + o)))]
        (base 64)).inputs =
        .bus (.write (BitVec.ofNat 18 (0x10000 + o)) 0x6B6E656A) :: .bus (.read (BitVec.ofNat 18 (0x10000 + o))) :: []) :=
  by decide +kernel

theorem witness_OperandLengthWriteThenRead :
    (busy .decrypt (base 64)).rstN = true ∧
    (([0x010, 0x014] : List Addr).all fun a =>
      (moves [.bus (.read a)] (busy .decrypt (base 64))).inputs == [.bus (.read a)]) = true ∧
    (base 64).rstN = true ∧ (base 64).seq = .idle ∧
    (moves [.bus (.write 0x010 0xFFFFFFFF), .bus (.read 0x010)] (base 64)).inputs =
      .bus (.write 0x010 0xFFFFFFFF) :: .bus (.read 0x010) :: [] ∧
    (moves [.bus (.write 0x014 0xFFFFFFFF), .bus (.read 0x014)] (base 64)).inputs =
      .bus (.write 0x014 0xFFFFFFFF) :: .bus (.read 0x014) :: [] := by decide +kernel

theorem witness_IvRegistersReadIvRegInLanes :
    (base 64).rstN = true ∧
    (∀ k ∈ [0, 3], k < 4 ∧ (moves [.bus (.read (BitVec.ofNat 18 (0x020 + 4 * k)))] (base 64)).inputs =
      .bus (.read (BitVec.ofNat 18 (0x020 + 4 * k))) :: []) := by decide +kernel

theorem witness_RegisterReadsReturnTheirValue :
    (base 64).rstN = true ∧
    (([0x000, 0x004, 0x00C, 0x018, 0x01C] : List Addr).all fun a =>
      (moves [.bus (.read a)] (base 64)).inputs == [.bus (.read a)]) = true := by decide +kernel

/-- A state with each code. -/
theorem witness_StatusWordShowsTheFields :
    ∀ e ∈ [ErrCode.ok, .kdf, .integrity, .malformed, .decoding, .unsupported, .notKeyed, .length, .illegal],
      ({ base 64 with err := e } : State).err = e := by decide

theorem witness_BusyShowsNoResult :
    (busy .decrypt (base 64)).Inv ∧ (busy .decrypt (base 64)).seq.isBusy = true := by decide +kernel

/-- Here OUT_LEN is 1, index 0 is defined, and the two memories differ at the undefined index 1. -/
theorem witness_UndefinedOutputIsNotReadBack :
    ∃ (s : State) (m : Memory) (t : State), m ≠ s.outBuf ∧ s.inputs = .bus (.read 0x20000) :: [] ∧
      (∀ i b, s.outByte i = some b → Memory.read m i = some b) ∧
      (∀ i, s.seq = .idle → i < s.outLen.toNat → Memory.read s.outBuf i = none → Memory.read m i = none) ∧
      step s = .next t := by
  refine ⟨moves [.bus (.read 0x20000)] { base 64 with outLen := 1, outBuf := [(0, 7), (1, 8)] }, [(0, 7), (1, 9)], _,
    by decide, rfl, fun i b h => ?_, fun i _ hi h => ?_, rfl⟩
  · have hi : i < 1 := by
      simp only [State.outByte] at h
      split at h
      · next hi => exact hi.2
      · cases h
    have : i = 0 := by omega
    subst this
    exact h
  · have hi : i < 1 := hi
    have : i = 0 := by omega
    subst this
    cases h

theorem witness_OutBufReadReturnsDefinedBytes :
    (base 64).rstN = true ∧ Config.validBufBytes (base 64).bufBytes = true ∧
    (∀ o ∈ [0, 60], o % 4 = 0 ∧ o < (base 64).bufBytes ∧
      (moves [.bus (.read (BitVec.ofNat 18 (0x20000 + o)))] (base 64)).inputs =
        .bus (.read (BitVec.ofNat 18 (0x20000 + o))) :: []) ∧
    State.outByte { base 64 with outLen := 1, outBuf := [(0, 7)] } 0 = some 7 := by decide +kernel

theorem witness_StatusWriteClearsOnlyDone :
    (base 64).rstN = true ∧ (moves [.bus (.write 0x00C 2)] (base 64)).inputs = .bus (.write 0x00C 2) :: [] ∧
    (2 : Word).getLsbD 1 = true ∧ (0xFFFFFFFD : Word).getLsbD 1 = false := by decide +kernel

/-- A command that completes with each kind of transaction in its cycle, the last word of IN_BUF among them; and a transaction
with a turn of the idle engine. -/
theorem witness_CompletionBeatsSameCycleClear :
    (busy .decrypt (base 64)).rstN = true ∧ (busy .decrypt (base 64)).seq = .busy .decrypt ∧
    Instr.decrypt.isIllegal = false ∧ Config.validBufBytes (busy .decrypt (base 64)).bufBytes = true ∧
    (∀ x ∈ [BusTx.read 0x00C, .write 0x00C 2, .write 0x004 1, .write 0x010 5, .write 0x014 5,
        .write (BitVec.ofNat 18 (0x10000 + 60)) 7, .write 0x008 1, .write 0x008 4],
      (moves [.engineAnd x] (busy .decrypt (base 64))).inputs = .engineAnd x :: [] ∧
      next (exec .decrypt ((moves [.engineAnd x] (busy .decrypt (base 64))).withInputs [])) (·.seq == .idle) = true) ∧
    (decodeWord 1).isIllegal = false ∧ (decodeWord 4).isIllegal = true ∧
    (moves [.engineAnd (.write 0x00C 2)] (base 64)).seq = .idle := by decide +kernel

/-- R253 by hand (E_NOT_KEYED is 6, R242): the read of STATUS in the cycle of a completion shows DONE = 1 and BUSY = 0. -/
theorem test_read_in_the_cycle_of_a_completion :
    next (step (moves [.engineAnd (.read 0x00C)] (busy .decrypt (base 64))))
      (fun t => t.busResult == .read 0x00000602 .okay) = true := by decide +kernel

theorem witness_InterruptFollowsDoneAndEnable :
    (base 64).rstN = true ∧ (moves [.bus (.write 0x004 1)] (base 64)).inputs = .bus (.write 0x004 1) :: [] ∧
    (moves [.bus (.write 0x00C 2)] (base 64)).inputs = .bus (.write 0x00C 2) :: [] ∧ (2 : Word).getLsbD 1 = true := by
  decide +kernel

/-- A completion, and an illegal word. -/
theorem witness_OnlyCompletionSetsDone :
    (∃ t, step (busy .decrypt (base 64)) = .next t ∧ t.done = true) ∧ (busy .decrypt (base 64)).done = false ∧
    (∃ t, step (moves [.bus (.write 0x008 4)] (base 64)) = .next t ∧ t.done = true) ∧
    (moves [.bus (.write 0x008 4)] (base 64)).done = false :=
  ⟨⟨_, rfl, rfl⟩, rfl, ⟨_, rfl, rfl⟩, rfl⟩

/-- The pair of V-KDF-9 (the Hudson secret key has the least length). -/
theorem witness_DeriveLoadsTheKey :
    let s := pair 64 [0x6B] hsk9
    let D := ecbD ((sha256 (s.memReadIn 0 s.len0)).take 16) (s.memReadIn s.len0 s.len1)
    s.len0 + s.len1 ≤ s.bufBytes ∧ 32 ≤ s.len1 ∧ s.len1 % 16 = 0 ∧ 29 ≤ D.length ∧ (D.drop 16).take 13 = marker := by
  decide +kernel

/-- Each failure at its boundary: the lengths add up to BUF_BYTES + 1; 31 bytes; 40 bytes, no multiple of 16; and a pair whose
decryption holds no marker. -/
theorem witness_DeriveFailureLeavesNoKey :
    (let s := pair 64 (rep 0 33) (rep 0 32);
      s.bufBytes < s.len0 + s.len1) ∧
    (let s := pair 64 (rep 0 33) (rep 0 31);
      s.len0 + s.len1 ≤ s.bufBytes ∧ s.len1 < 32) ∧
    (let s := pair 64 [] (rep 0 40);
      s.len0 + s.len1 ≤ s.bufBytes ∧ s.len1 % 16 ≠ 0) ∧
    (let s := pair 64 [] hsk9;
      let D := ecbD ((sha256 (s.memReadIn 0 s.len0)).take 16) (s.memReadIn s.len0 s.len1)
      s.len0 + s.len1 ≤ s.bufBytes ∧ ¬(29 ≤ D.length ∧ (D.drop 16).take 13 = marker)) := by decide +kernel

/-- Two states that differ outside the operands: the keys, IV_REG and the byte after them. -/
theorem witness_DeriveDependsOnItsOperandsAlone :
    let s := pair 64 [0x6B] (rep 0 31)
    let s' := { s with ivReg := 5, kstate := .keyed, cipherKey := 9, inBuf := Memory.write s.inBuf 32 0xFF }
    s'.bufBytes = s.bufBytes ∧ s'.inLen0 = s.inLen0 ∧ s'.inLen1 = s.inLen1 ∧
    (∀ i, i < s.len0 + s.len1 → s'.inByte i = s.inByte i) ∧ (∃ t, exec .derive s = .next t) ∧
    (∃ t', exec .derive s' = .next t') :=
  ⟨rfl, rfl, rfl, by decide +kernel, ⟨_, rfl⟩, ⟨_, rfl⟩⟩

/-- A failing DERIVE on a KEYED state, and a reset. -/
theorem witness_OnlyDeriveAndResetWriteTheKey :
    (∃ t, step (busy .derive (loaded 64 [])) = .next t ∧ t.kstate ≠ (busy .derive (loaded 64 [])).kstate) ∧
    (∃ t, step (moves [.rst false] (loaded 64 [])) = .next t ∧ t.kstate ≠ (loaded 64 []).kstate) :=
  ⟨⟨_, rfl, by decide⟩, ⟨_, rfl, by decide⟩⟩

theorem witness_OnlyResetReturnsToUnkeyed :
    (∃ t, step (moves [.rst false] (loaded 64 [])) = .next t ∧ t.kstate = .unkeyed) ∧
    (∃ t, step (base 64) = .next t ∧ t.kstate = .unkeyed) :=
  ⟨⟨_, rfl, rfl⟩, ⟨_, rfl, rfl⟩⟩

theorem witness_NoBusTransactionShowsTheKeys :
    (moves [.bus (.read 0x00C)] (loaded 64 [])).inputs = .bus (.read 0x00C) :: [] ∧
    (∃ t, step (moves [.bus (.read 0x00C)] (loaded 64 [])) = .next t) :=
  ⟨rfl, ⟨_, rfl⟩⟩

theorem witness_UnkeyedCommandsRaiseNotKeyed :
    (base 64).kstate ≠ .keyed ∧ ({ base 64 with kstate := .failed } : State).kstate ≠ .keyed ∧
    Instr.encryptFramed.isIllegal = false ∧ Instr.encryptFramed ≠ .derive := by decide +kernel

/-- Each clause: 33 bytes; the empty payload, with no marker; V-LEG-D8, whose prefix is not UTF-8; V-LEG-D6. -/
theorem witness_DecryptLegacyResult :
    (let s := loaded 64 (rep 0 33);
      s.kstate = .keyed ∧ s.len0 ≤ s.bufBytes ∧ (s.memReadIn 0 s.len0)[0]? ≠ some 0x01 ∧ s.len0 % 16 ≠ 0) ∧
    (let s := loaded 64 [];
      s.kstate = .keyed ∧ s.len0 ≤ s.bufBytes ∧ (s.memReadIn 0 s.len0)[0]? ≠ some 0x01 ∧ s.len0 % 16 = 0 ∧
      findMarker (ecbD s.key (s.memReadIn 0 s.len0)) = none) ∧
    (let s := loaded 64 (hexBytes 16 0x569f4e588869d5eb6ad2db5a55989964);
      s.len0 ≤ s.bufBytes ∧ (s.memReadIn 0 s.len0)[0]? ≠ some 0x01 ∧
      findMarker (ecbD s.key (s.memReadIn 0 s.len0)) = some 1 ∧
      utf8OK ((ecbD s.key (s.memReadIn 0 s.len0)).take 1) = false) ∧
    (let s := loaded 16 (hexBytes 16 0x8d75e427a396f368b42812b47ae52af1);
      s.len0 ≤ s.bufBytes ∧ (s.memReadIn 0 s.len0)[0]? ≠ some 0x01 ∧
      findMarker (ecbD s.key (s.memReadIn 0 s.len0)) = some 2 ∧
      utf8OK ((ecbD s.key (s.memReadIn 0 s.len0)).take 2) = true) := by decide +kernel

/-- Each failure at its boundary: BUF_BYTES + 1 bytes; 8 bytes; the sum check with one byte too many; an IV of 8 bytes; a body of
17 bytes (V-FRM-D3, D5, D6, D7). -/
theorem witness_DecryptRejectsBadPayload :
    (let s := loaded 64 (rep 0 65);
      s.kstate = .keyed ∧ s.bufBytes < s.len0) ∧
    (∀ C ∈ [frmE1.take 8, frmE1 ++ [0x00],
        [0x01] ++ hexBytes 8 0x0000000800000020 ++ iva.take 8 ++ frmE1.drop 25, frameD (rep 0 17)],
      (loaded 64 C).kstate = .keyed ∧ (loaded 64 C).len0 ≤ (loaded 64 C).bufBytes ∧
      C = (loaded 64 C).memReadIn 0 (loaded 64 C).len0 ∧ C[0]? = some 0x01 ∧
      (C.length < 9 ∨ 9 + beNat ((C.drop 1).take 4) + beNat ((C.drop 5).take 4) ≠ C.length ∨
        beNat ((C.drop 1).take 4) ≠ 16 ∨ beNat ((C.drop 5).take 4) % 16 ≠ 0)) := by decide +kernel

/-- Each clause: an empty body; the count 0 (V-FRM-D10); 65 of 16 (D12); a remainder that is not UTF-8 (D14); the count equal to
the body's length (D15). -/
theorem witness_DecryptFramedResult :
    (∀ b ∈ [[], hexBytes 16 0xeb593b41c96ffe158076a92d64c0c365, hexBytes 16 0xab74350f2f19b4ea4de050762e12dbc1,
        hexBytes 16 0x8107121792da9fa83eed4a29a909a6ff, hexBytes 16 0xc84af0b613435d5d9182801a9bd9320b],
      (loaded 64 (frameD b)).kstate = .keyed ∧ (loaded 64 (frameD b)).len0 ≤ (loaded 64 (frameD b)).bufBytes ∧
      frameD b = (loaded 64 (frameD b)).memReadIn 0 (loaded 64 (frameD b)).len0 ∧ (frameD b)[0]? = some 0x01 ∧
      (frameD b).length = 25 + b.length ∧ b.length % 16 = 0 ∧ beNat (((frameD b).drop 1).take 4) = 16 ∧
      beNat (((frameD b).drop 5).take 4) = b.length) ∧
    (cbcD ck iva (hexBytes 16 0xeb593b41c96ffe158076a92d64c0c365))[15]? = some 0x00 ∧
    (cbcD ck iva (hexBytes 16 0xab74350f2f19b4ea4de050762e12dbc1))[15]? = some 0x41 ∧
    utf8OK ((cbcD ck iva (hexBytes 16 0x8107121792da9fa83eed4a29a909a6ff)).take 1) = false ∧
    (cbcD ck iva (hexBytes 16 0x8107121792da9fa83eed4a29a909a6ff))[15]? = some 0x0F ∧
    (cbcD ck iva (hexBytes 16 0xc84af0b613435d5d9182801a9bd9320b))[15]? = some 0x10 := by decide +kernel

/-- Each failure at its boundary, for both formats: BUF_BYTES + 1 bytes; `c3 28`; 51 and 32 bytes (V-LEN-3, V-LEN-4). -/
theorem witness_EncryptRejectsBadPlaintext :
    (let s := loaded 64 (rep 0x61 65);
      s.kstate = .keyed ∧ s.bufBytes < s.len0) ∧
    (let s := loaded 64 [0xc3, 0x28];
      s.kstate = .keyed ∧ s.len0 ≤ s.bufBytes ∧ utf8OK (s.memReadIn 0 s.len0) = false) ∧
    (let s := loaded 64 (rep 0x61 51);
      s.len0 ≤ s.bufBytes ∧ utf8OK (s.memReadIn 0 s.len0) = true ∧ s.bufBytes < outLenOf .legacy s.len0) ∧
    (let s := loaded 64 (rep 0x61 32);
      s.len0 ≤ s.bufBytes ∧ utf8OK (s.memReadIn 0 s.len0) = true ∧ s.bufBytes < outLenOf .framed s.len0) := by
  decide +kernel

/-- V-LEN-3: 50 bytes, whose output fills the buffer. -/
theorem witness_EncryptLegacyResult :
    let s := loaded 64 (rep 0x61 50)
    s.kstate = .keyed ∧ utf8OK (s.memReadIn 0 s.len0) = true ∧ 16 * ((s.len0 + 13) / 16) + 16 ≤ s.bufBytes ∧
    s.bufBytes < 2 ^ 32 := by decide +kernel

/-- V-LEN-4: 23 bytes, with the draw there. -/
theorem witness_EncryptFramedResult :
    let s := drawn iva (loaded 64 (rep 0x61 23))
    s.kstate = .keyed ∧ utf8OK (s.memReadIn 0 s.len0) = true ∧ 25 + 16 * (s.len0 / 16 + 1) ≤ s.bufBytes ∧
    s.bufBytes < 2 ^ 32 ∧ s.trngReq = true ∧ s.trngValid = true := by decide +kernel

theorem witness_EncryptFramedRequestsAndWaits :
    let s := loaded 64 testText
    s.kstate = .keyed ∧ utf8OK (s.memReadIn 0 s.len0) = true ∧ 25 + 16 * (s.len0 / 16 + 1) ≤ s.bufBytes ∧
    s.trngReq = false ∧ ({ s with trngReq := true } : State).trngReq = true ∧
    ({ s with trngReq := true } : State).trngValid = false := by decide +kernel

theorem witness_OnlyCheckedFramedEncryptAsksForADraw :
    ∃ t, exec .encryptFramed (loaded 64 testText) = .next t ∧
      (!(loaded 64 testText).trngReq && t.trngReq) = true := next_iff (by decide +kernel)

theorem witness_UnsupportedFormatsRaiseUnsupported :
    (loaded 64 []).kstate = .keyed ∧ (∃ t, exec .decrypt (loaded 64 (rep 0 33)) = .next t ∧ (t.err == .length) = true) :=
  ⟨rfl, next_iff (by decide +kernel)⟩

theorem witness_CommandsComplete :
    (busy .decrypt (base 64)).rstN = true ∧ (busy .decrypt (base 64)).seq = .busy .decrypt ∧
    Instr.decrypt.isIllegal = false ∧ (busy .decrypt (base 64)).inputs = [] ∧ Instr.decrypt ≠ .encryptFramed ∧
    (busy .encryptFramed (drawn iva (loaded 64 testText))).seq = .busy .encryptFramed ∧
    (busy .encryptFramed (drawn iva (loaded 64 testText))).inputs = [] ∧
    (busy .encryptFramed (drawn iva (loaded 64 testText))).trngValid = true :=
  ⟨rfl, rfl, rfl, rfl, by decide, rfl, rfl, rfl⟩

theorem witness_SecondLengthIsIgnored :
    Instr.encryptFramed ≠ .derive ∧
    (∃ t, exec .encryptFramed (drawn iva (loaded 64 testText)) = .next t ∧ ended .ok frmE1 t = true) :=
  ⟨by decide, next_iff (by decide +kernel)⟩

/-- Two states that differ outside what ENCRYPT.FRAMED reads: IV_REG, IN_LEN1 and the byte after the plaintext. -/
theorem witness_CallsAreIndependent :
    let s := drawn iva (loaded 64 testText)
    let s' := { s with ivReg := 5, inLen1 := 9, inBuf := Memory.write s.inBuf 19 0xFF }
    Instr.encryptFramed.isIllegal = false ∧ Instr.encryptFramed ≠ .derive ∧ s'.bufBytes = s.bufBytes ∧
    s'.kstate = s.kstate ∧ s'.cipherKey = s.cipherKey ∧ s'.inLen0 = s.inLen0 ∧
    (∀ j, j < s.len0 → s'.inByte j = s.inByte j) ∧
    (s.trngReq = true ∧ s'.trngReq = true ∧ s.trngValid = true ∧ s'.trngValid = true ∧ s'.trngData = s.trngData) ∧
    (∃ t, exec .encryptFramed s = .next t ∧ t.done = true) ∧ (∃ t', exec .encryptFramed s' = .next t' ∧ t'.done = true) :=
  ⟨rfl, by decide, rfl, rfl, rfl, rfl, by decide +kernel, ⟨rfl, rfl, rfl, rfl, rfl⟩, next_iff (by decide +kernel),
    next_iff (by decide +kernel)⟩

/-- V-FRM-D8: an empty body, after the frame checks. -/
theorem witness_OnlyFramedOperationsWriteIvReg :
    ∃ t, exec .decrypt (loaded 64 (frameD [])) = .next t ∧ (t.ivReg != (loaded 64 (frameD [])).ivReg) = true :=
  next_iff (by decide +kernel)

theorem witness_CipherIsABijectionOnBlocks : ck.length = 16 ∧ iva.length = 16 := by decide +kernel

/-- Two equal blocks, the zero IV, and the empty string. -/
theorem witness_CipherModeLaws :
    ck.length = 16 ∧ (rep 0 16).length = 16 ∧ (rep 0x61 32).length % 16 = 0 ∧ ([] : Bytes).length % 16 = 0 ∧
    slice (rep 0x61 32) (16 * 0) (16 * 0 + 16) = slice (rep 0x61 32) (16 * 1) (16 * 1 + 16) := by decide +kernel

theorem witness_MarkerSearchFindsTheFirst : (marker.take 12).length < 13 := by decide +kernel

theorem witness_BuiltFrameParsesBack :
    iva.length = 16 ∧ (rep 0x61 32).length % 16 = 0 ∧ (rep 0x61 32).length < 2 ^ 32 ∧ ([] : Bytes).length % 16 = 0 := by
  decide +kernel

/-- V-FRM-E1 and its output as a payload. -/
theorem witness_FramedRoundTrip :
    let s := drawn iva (loaded 64 testText)
    let u := loaded 64 frmE1
    s.kstate = .keyed ∧ s.bufBytes < 2 ^ 32 ∧ s.trngReq = true ∧ s.trngValid = true ∧ u.kstate = .keyed ∧
    u.cipherKey = s.cipherKey ∧ u.bufBytes = s.bufBytes ∧
    ∃ t, exec .encryptFramed s = .next t ∧
      (t.err == .ok && u.inLen0 == t.outLen && (List.range t.outLen.toNat).all fun i => some (u.inByte i) == t.outByte i) =
        true :=
  ⟨rfl, by decide, rfl, rfl, rfl, rfl, rfl, next_iff (by decide +kernel)⟩

/-- V-LEG-E1 (no earlier marker), V-LEG-D5 (`::::MAGIC`, an earlier marker at 0) and V-DET-3 (`p351`, first byte 1). -/
theorem witness_LegacyRoundTrip :
    (∀ q ∈ [(jenkins, legE1), (marker.take 9, hexBytes 32 0x107073b295db9b000b8ea01ad48c254d9a6bdfbfdba0becfefc0589298f99047),
        ([0x70, 0x33, 0x35, 0x31], hexBytes 32 0x01d5c861d3e262f0e292b3c888d0e4b7caf2130049d16d8e0f36f34fcef003de)],
      (loaded 64 q.1).kstate = .keyed ∧ (loaded 64 q.1).bufBytes < 2 ^ 32 ∧
      q.1 = (loaded 64 q.1).memReadIn 0 (loaded 64 q.1).len0 ∧ (loaded 64 q.2).kstate = .keyed ∧
      (loaded 64 q.2).cipherKey = (loaded 64 q.1).cipherKey ∧ (loaded 64 q.2).bufBytes = (loaded 64 q.1).bufBytes ∧
      next (exec .encryptLegacy (loaded 64 q.1)) (fun t => ended .ok q.2 t && (loaded 64 q.2).inLen0 == t.outLen &&
        (List.range t.outLen.toNat).all fun i => some ((loaded 64 q.2).inByte i) == t.outByte i) = true) ∧
    findMarker (pad (jenkins ++ marker)) = some jenkins.length ∧
    findMarker (pad (marker.take 9 ++ marker)) = some 0 := by decide +kernel

theorem witness_ResetPutsEveryElementAtItsResetValue :
    (moves [.rst false] (busy .encryptFramed (drawn iva (loaded 64 testText)))).inputs = .rst false :: [] := rfl

/-- Each move in reset, and the release of reset and a move of the TRNG while a command runs. -/
theorem witness_HeldInReset :
    (base 64).resetAsserted.Inv ∧ (base 64).resetAsserted.rstN = false ∧ (base 64).resetAsserted.inputs = [] ∧
    (([.engine, .bus (.read 0), .engineAnd (.read 0), .rst true, .trng true 5] : List Input).all fun i =>
      (moves [i] (base 64).resetAsserted).inputs == [i]) = true ∧
    (moves [.trng true 5] (busy .encryptFramed (base 64))).inputs = .trng true 5 :: [] ∧
    (moves [.rst true] (busy .encryptFramed (base 64))).inputs = .rst true :: [] := by decide +kernel

/-- A sound state with a command running, whose step completes it. -/
theorem witness_StepKeepsInvariant :
    (busy .decrypt (loaded 64 [])).Inv ∧ ∃ t, step (busy .decrypt (loaded 64 [])) = .next t ∧ t.done = true :=
  ⟨by decide +kernel, next_iff (by decide +kernel)⟩

/-- In reset with no transaction to come, and outside reset with one. -/
theorem witness_SoundStatesStepSafely :
    (base 64).resetAsserted.Inv ∧ (base 64).resetAsserted.FabricOk ∧
    (moves [.bus (.read 0)] (base 64)).Inv ∧ (moves [.bus (.read 0)] (base 64)).FabricOk :=
  ⟨by decide, fun _ _ _ => ⟨fun h => (by cases h), fun h => (by cases h)⟩, by decide, fun h => by cases h⟩

end Sys2Proof.Tests
end

section
/-! PROOFS. The lengths of what the commands answer: every output fits in BUF_BYTES (10_state.md R36, 20_memory.md R73). -/

namespace Sys2Proof.Proofs

open Sys2Proof.Machine

/-- The registers that hold keys and draws are 16 bytes long (R24, R131). -/
@[simp] theorem key_length (s : State) : s.key.length = 16 := blockBytes_length _

@[simp] theorem draw16_length (s : State) : s.draw16.length = 16 := blockBytes_length _

theorem marker_length : marker.length = 13 := rfl

theorem textVerdict_ok {pt B : Bytes} (h : textVerdict pt = .ok B) : B = pt := by
  rw [textVerdict] at h
  split at h
  · cases h; rfl
  · cases h

/-- LEGACY_DECODE answers no more bytes than it is given (R170). -/
theorem legacyVerdict_ok_length_le {k C B : Bytes} (hk : k.length = 16) (h : legacyVerdict k C = .ok B) :
    B.length ≤ C.length := by
  rw [legacyVerdict] at h
  split at h
  · cases h
  · have hD : (ecbD k C).length ≤ C.length := by
      rw [ecbD_length hk]
      exact Nat.mul_div_le _ _
    cases hm : findMarker (ecbD k C) with
    | none => simp [hm] at h
    | some i =>
      simp only [hm] at h
      rw [textVerdict_ok h]
      exact (slice_length_le _ _ _).trans hD

/-- Stripping the padding makes no string longer (R183). -/
theorem unpad_length_le {D M : Bytes} (h : unpad D = some M) : M.length ≤ D.length := by
  rw [unpad] at h
  split at h
  · cases h
  · split at h
    · cases h
    · cases h
      exact slice_length_le _ _ _

/-- A payload that passes the frame checks splits into a 16-byte IV and a body no longer than itself (R127, R181). -/
theorem parseFrame_lengths {C iv body : Bytes} (h : parseFrame C = some (iv, body)) :
    iv.length = 16 ∧ body.length ≤ C.length := by
  simp only [parseFrame] at h
  split_ifs at h with h9 hsum hiv hblock
  obtain ⟨rfl, rfl⟩ := Prod.mk.inj (Option.some.inj h)
  exact ⟨slice_length (by omega), slice_length_le _ _ _⟩

/-- FRAMED_DECODE answers no more bytes than its body has (R180). -/
theorem framedVerdict_ok_length_le {k iv body B : Bytes} (hk : k.length = 16) (hiv : iv.length = 16)
    (h : framedVerdict k iv body = .ok B) : B.length ≤ body.length := by
  have hD : (cbcD k iv body).length ≤ body.length := by
    rw [cbcD_length hk hiv]
    exact Nat.mul_div_le _ _
  rw [framedVerdict] at h
  cases hu : unpad (cbcD k iv body) with
  | none => simp [hu] at h
  | some pt =>
    simp only [hu] at h
    rw [textVerdict_ok h]
    exact (unpad_length_le hu).trans hD

/-- OUTLEN is the length of LEGACY_ENCODE's output (R158, R173). -/
theorem legacyPayload_length {k : Bytes} (hk : k.length = 16) (M : Bytes) :
    (legacyPayload k M).length = outLenOf .legacy M.length := by
  rw [legacyPayload, ecbE_length hk, pad_length, List.length_append, marker_length, outLenOf]
  omega

/-- OUTLEN is the length of FRAMED_ENCODE's output (R158, R187). -/
theorem framedPayload_length {k iv : Bytes} (hk : k.length = 16) (hiv : iv.length = 16) (M : Bytes) :
    (framedPayload k iv M).length = outLenOf .framed M.length := by
  simp only [framedPayload, frame, List.length_cons, List.length_append, be32_length, cbcE_length hk, hiv, pad_length,
    outLenOf]
  omega

/-- A plaintext that passes the checks has an output that fits (R158). -/
theorem outLenOf_le_of_plaintextVerdict_ok {fmt : Format} {n size : Nat} {M N : Bytes}
    (h : plaintextVerdict fmt size n M = .ok N) : outLenOf fmt n ≤ size := by
  rcases plaintextVerdict_cases fmt size n M with ⟨-, hv⟩ | ⟨-, -, hv⟩ | ⟨-, -, -, hv⟩ | ⟨-, -, hle, -⟩
  · rw [hv] at h; cases h
  · rw [hv] at h; cases h
  · rw [hv] at h; cases h
  · exact hle

end Sys2Proof.Proofs
end

section
/-! PROOFS. What each command class can end a step in. `CommandEffect` lists the next states of all the classes together;
`ClassEffect` says which class each of them belongs to and that an output fits in the buffer. -/

namespace Sys2Proof.Proofs

open Sys2Proof.Machine

/-- The states a class can end a step in, each under the class that can reach it. -/
inductive ClassEffect (s : State) : Instr → State → Prop where
  /-- An illegal word completes at once (R154). -/
  | illegal (op fmt : BitVec 4) (rsvd : BitVec 24) : ClassEffect s (.illegal op fmt rsvd) s.illegalCompleted
  /-- A derivation failed (R144). -/
  | derivationFailed (e : ErrCode) : ClassEffect s .derive (s.derivationFailed e)
  /-- A key was derived (R143). -/
  | keyLoaded (k : Block) : ClassEffect s .derive ((s.withTempKey 0).keyLoaded k)
  /-- An error before the format was recorded, of any class but DERIVE. -/
  | raised {i : Instr} (e : ErrCode) (hi : i ≠ .derive) : ClassEffect s i (s.raised e)
  /-- An error after the format was recorded (R160). -/
  | raisedFmt {i : Instr} (f : Format) (e : ErrCode) (hi : i ≠ .derive) : ClassEffect s i ((s.withFmtUsed f).raised e)
  /-- An error of a Framed decode after its frame checks (R182). -/
  | raisedIv (iv : Block) (e : ErrCode) : ClassEffect s .decrypt (((s.withFmtUsed .framed).withIv iv).raised e)
  /-- A Legacy success. -/
  | finishedLegacy {i : Instr} (B : Bytes) (hi : i = .decrypt ∨ i = .encryptLegacy) (hB : B.length ≤ s.bufBytes) :
      ClassEffect s i ((s.withFmtUsed .legacy).finished B)
  /-- A Framed success. -/
  | finishedFramed {i : Instr} (iv : Block) (B : Bytes) (hi : i = .decrypt ∨ i = .encryptFramed)
      (hB : B.length ≤ s.bufBytes) : ClassEffect s i (((s.withFmtUsed .framed).withIv iv).finished B)
  /-- A request for a draw (R130). -/
  | requested : ClassEffect s .encryptFramed (s.withTrngReq true)
  /-- A wait for a draw (R130). -/
  | waited : ClassEffect s .encryptFramed s

theorem execDerive_effect {s t : State} (h : execDerive s = .next t) : ClassEffect s .derive t := by
  rcases execDerive_cases s with ⟨-, he⟩ | ⟨-, -, he⟩ | ⟨-, -, -, he⟩ <;> rw [he] at h <;> cases h
  · exact .derivationFailed _
  · exact .derivationFailed _
  · rcases deriveFrom_cases (s.memReadIn 0 s.len0) (s.memReadIn s.len0 s.len1) s with ⟨-, hd⟩ | ⟨-, hd⟩
    · exact hd ▸ .keyLoaded _
    · exact hd ▸ .derivationFailed _

theorem execDecrypt_effect {s t : State} (h : execDecrypt s = .next t) : ClassEffect s .decrypt t := by
  have hlen := s.memReadIn_length 0 s.len0
  rcases execDecrypt_cases s with
    ⟨-, he⟩ | ⟨-, -, he⟩ | ⟨-, hle, -, he⟩ | ⟨-, -, -, -, he⟩ | ⟨-, hle, -, iv, body, hp, he⟩ <;> rw [he] at h
  · cases h
    exact .raised _ (by decide)
  · cases h
    exact .raised _ (by decide)
  · rcases State.complete_cases h with ⟨B, hv, rfl⟩ | ⟨e, -, rfl⟩
    · have hB := legacyVerdict_ok_length_le (key_length s) hv
      exact .finishedLegacy B (.inl rfl) (by omega)
    · exact .raisedFmt _ e (by decide)
  · cases h
    exact .raisedFmt _ _ (by decide)
  · obtain ⟨hiv, hbody⟩ := parseFrame_lengths hp
    rcases State.complete_cases h with ⟨B, hv, rfl⟩ | ⟨e, -, rfl⟩
    · have hB := framedVerdict_ok_length_le (key_length s) hiv hv
      exact .finishedFramed _ B (.inl rfl) (by omega)
    · exact .raisedIv _ e

theorem execEncryptLegacy_effect {s t : State} (h : execEncryptLegacy s = .next t) : ClassEffect s .encryptLegacy t := by
  rw [execEncryptLegacy] at h
  rcases encryptWith_cases .legacy (legacyEncode s) s with ⟨-, he⟩ | ⟨-, e, -, he⟩ | ⟨-, hv, he⟩ <;> rw [he] at h <;> cases h
  · exact .raised _ (by decide)
  · exact .raisedFmt _ e (by decide)
  · have hB := outLenOf_le_of_plaintextVerdict_ok hv
    refine .finishedLegacy _ (.inr rfl) ?_
    rwa [legacyPayload_length (key_length _), State.memReadIn_length]

theorem execEncryptFramed_effect {s t : State} (h : execEncryptFramed s = .next t) : ClassEffect s .encryptFramed t := by
  rw [execEncryptFramed] at h
  rcases encryptWith_cases .framed (framedEncode s) s with ⟨-, he⟩ | ⟨-, e, -, he⟩ | ⟨-, hv, he⟩ <;> rw [he] at h
  · cases h
    exact .raised _ (by decide)
  · cases h
    exact .raisedFmt _ e (by decide)
  · rcases framedEncode_cases s (s.memReadIn 0 s.len0) with ⟨-, hf⟩ | ⟨-, -, hf⟩ | ⟨-, -, hf⟩ <;> rw [hf] at h <;> cases h
    · exact .requested
    · exact .waited
    · have hB := outLenOf_le_of_plaintextVerdict_ok hv
      refine .finishedFramed _ _ (.inr rfl) ?_
      rwa [framedPayload_length (key_length s) (draw16_length s), State.memReadIn_length]

theorem encryptUnsupported_effect {i : Instr} (hi : i ≠ .derive) {s t : State} (h : encryptUnsupported s = .next t) :
    ClassEffect s i t := by
  rw [encryptUnsupported_eq] at h
  cases h
  exact .raised _ hi

/-- What a command answers is one of the effects of its class. -/
theorem exec_classEffect {i : Instr} {s t : State} (h : exec i s = .next t) : ClassEffect s i t := by
  cases i with
  | derive => exact execDerive_effect h
  | decrypt => exact execDecrypt_effect h
  | encryptLegacy => exact execEncryptLegacy_effect h
  | encryptFramed => exact execEncryptFramed_effect h
  | illegal op fmt rsvd => cases h; exact .illegal op fmt rsvd
  | _ => exact encryptUnsupported_effect (by decide) h

end Sys2Proof.Proofs
end

section
/-! PROOFS. The invariant (`State.Inv`): what each bus transaction, each command and each move keeps of it. -/

namespace Sys2Proof.Proofs

open Sys2Proof.Machine

/-- The sizes BUF_BYTES may have (R12). -/
theorem validBufBytes_iff {n : Nat} : Config.validBufBytes n = true ↔ n % 16 = 0 ∧ 64 ≤ n ∧ n ≤ 65536 := by
  simp only [Config.validBufBytes, Bool.and_eq_true, beq_iff_eq, decide_eq_true_eq, and_assoc]

/-- Outside reset the clause for reset says nothing. -/
theorem resetOk_of_rstN {s : State} (h : s.rstN = true) : s.ResetOk := fun hr => absurd (h.symm.trans hr) (by decide)

/-- While IDLE the sequencer promises that no draw is asked for (R260). -/
theorem sequencerOk_idle {s : State} (h : s.seq = .idle) : s.sequencerOk = true ↔ s.trngReq = false := by
  simp [State.sequencerOk, h]

/-- What the sequencer promises while BUSY (R75, R150, R260). -/
theorem sequencerOk_busy {s : State} {c : Instr} (h : s.seq = .busy c) :
    s.sequencerOk = true ↔
      c.isIllegal = false ∧ s.done = false ∧ s.err = .ok ∧ s.outLen = 0 ∧ (s.trngReq = false ∨ c = .encryptFramed) := by
  simp only [State.sequencerOk, h, Bool.and_eq_true, Bool.or_eq_true, Bool.not_eq_true', beq_iff_eq, and_assoc]

/-! ### Fields the invariant does not speak of -/

theorem inv_withInputs (l : List Input) (s : State) : (s.withInputs l).Inv ↔ s.Inv := Iff.rfl
theorem inv_trngDriven (v : Bool) (d : Block) (s : State) : (s.trngDriven v d).Inv ↔ s.Inv := Iff.rfl

/-! ### Bus transactions -/

/-- A word of IN_BUF written within the buffer keeps it canonical and bounded (R65, R73). -/
theorem inWordWritten_buffersOk {s : State} {o : Nat} (w : Word) (hv : Config.validBufBytes s.bufBytes = true)
    (hb : s.BuffersOk) (ho : o < s.bufBytes) (h4 : o % 4 = 0) : (s.inWordWritten o w).BuffersOk := by
  obtain ⟨hwf, hbelow, hout⟩ := hb
  have hfit : o + 4 ≤ s.bufBytes := by
    obtain ⟨h16, -, -⟩ := validBufBytes_iff.mp hv
    omega
  exact ⟨Memory.wf_writeBytes _ _ hwf, Memory.below_writeBytes _ _ hbelow hfit, hout⟩

/-- Clearing DONE breaks no promise of the sequencer (R75). -/
theorem statusWritten_sequencerOk {s : State} (b : Bool) (w : Word) (h : s.sequencerOk = true) :
    (s.statusWritten b w).sequencerOk = true := by
  cases hq : s.seq with
  | idle => exact (sequencerOk_idle (s := s.statusWritten b w) hq).mpr ((sequencerOk_idle hq).mp h)
  | busy c =>
    obtain ⟨hc, hd, hrest⟩ := (sequencerOk_busy hq).mp h
    exact (sequencerOk_busy (s := s.statusWritten b w) hq).mpr ⟨hc, by simp [hd], hrest⟩

/-- Acceptance of a legal class while IDLE (R151). -/
theorem accepted_sequencerOk {s : State} {c : Instr} (hq : s.seq = .idle) (hc : c.isIllegal = false)
    (h : s.sequencerOk = true) : (s.accepted c).sequencerOk = true :=
  (sequencerOk_busy rfl).mpr ⟨hc, rfl, rfl, rfl, .inl ((sequencerOk_idle hq).mp h)⟩

/-- With OUT_LEN = 0 the buffers keep their promise whatever SEQ becomes: no byte of OUT_BUF need be defined (R33). -/
theorem buffersOk_of_outLen_zero {s t : State} (hb : s.BuffersOk) (hn : t.bufBytes = s.bufBytes)
    (hi : t.inBuf = s.inBuf) (ho : t.outBuf = s.outBuf) (h0 : t.outLen = 0) : t.BuffersOk := by
  obtain ⟨hiwf, hibelow, howf, hobelow, -, -⟩ := hb
  rw [State.BuffersOk, hn, hi, ho, h0]
  exact ⟨hiwf, hibelow, howf, hobelow, Nat.zero_le _, fun _ _ h => absurd h (Nat.not_lt_zero _)⟩

/-- A bus transaction keeps the invariant. -/
theorem busEffect_keeps_inv {s t : State} (hr : s.rstN = true) (hs : s.Inv) (h : BusEffect s t) : t.Inv := by
  obtain ⟨hv, hb, hk, hq, -⟩ := hs
  cases h with
  | answered | readOut | ctrl | inLen0 | inLen1 => exact ⟨hv, hb, hk, hq, resetOk_of_rstN hr⟩
  | status b w => exact ⟨hv, hb, hk, statusWritten_sequencerOk b w hq, resetOk_of_rstN hr⟩
  | inBuf o w _ ho => exact ⟨hv, inWordWritten_buffersOk w hv hb ho.1 ho.2, hk, hq, resetOk_of_rstN hr⟩
  | accepted c hi hc =>
    exact ⟨hv, buffersOk_of_outLen_zero hb rfl rfl rfl rfl, hk, accepted_sequencerOk (s := s.answered _) hi hc hq,
      resetOk_of_rstN hr⟩
  | illegal hi =>
    exact ⟨hv, buffersOk_of_outLen_zero hb rfl rfl rfl rfl, hk,
      (sequencerOk_idle (s := (s.answered _).illegalCompleted) hi).mpr ((sequencerOk_idle hi).mp hq),
      resetOk_of_rstN hr⟩

/-! ### Completions -/

/-- `finish(B)` keeps the invariant when the output fits in the buffer: it defines exactly the bytes below OUT_LEN (R152). -/
theorem finished_inv {s : State} {B : Bytes} (hr : s.rstN = true) (hv : Config.validBufBytes s.bufBytes = true)
    (hb : s.BuffersOk) (hk : s.KeysOk) (hB : B.length ≤ s.bufBytes) : (s.finished B).Inv := by
  obtain ⟨hiwf, hibelow, howf, hobelow, -, -⟩ := hb
  have hlen : (s.finished B).outLen.toNat = B.length := by
    obtain ⟨-, -, hle⟩ := validBufBytes_iff.mp hv
    rw [State.finished_outLen, BitVec.toNat_ofNat]
    omega
  have hfit : 0 + B.length ≤ s.bufBytes := by omega
  refine ⟨hv, ⟨hiwf, hibelow, Memory.wf_writeBytes _ _ howf, Memory.below_writeBytes _ _ hobelow hfit,
    hlen.trans_le hB, fun _ i hi => ?_⟩, hk, rfl, resetOk_of_rstN hr⟩
  rw [hlen] at hi
  rw [State.finished_outBuf, Memory.read_writeBytes_zero _ _ hi, List.getElem?_eq_getElem hi]
  rfl

/-- `raise e` keeps the invariant: no output is left (60_exceptions.md R240). -/
theorem raised_inv {s : State} (e : ErrCode) (hr : s.rstN = true) (hv : Config.validBufBytes s.bufBytes = true)
    (hb : s.BuffersOk) (hk : s.KeysOk) : (s.raised e).Inv :=
  ⟨hv, buffersOk_of_outLen_zero hb rfl rfl rfl rfl, hk, rfl, resetOk_of_rstN hr⟩

/-! ### The engine -/

/-- An accepted command keeps the invariant, whether it completes, asks for a draw or waits for one. -/
theorem classEffect_keeps_inv {s t : State} {c : Instr} (hr : s.rstN = true) (hs : s.Inv) (hc : s.seq = .busy c)
    (h : ClassEffect s c t) : t.Inv := by
  obtain ⟨hv, hb, hk, hq, -⟩ := id hs
  cases h with
  | illegal op fmt rsvd =>
    obtain ⟨hl, -⟩ := (sequencerOk_busy hc).mp hq
    cases hl
  | derivationFailed e => exact raised_inv e hr hv hb ⟨rfl, fun _ => rfl⟩
  | keyLoaded k => exact finished_inv hr hv hb ⟨rfl, fun h => absurd rfl h⟩ (Nat.zero_le _)
  | raised e _ => exact raised_inv e hr hv hb hk
  | raisedFmt f e _ => exact raised_inv e hr hv hb hk
  | raisedIv iv e => exact raised_inv e hr hv hb hk
  | finishedLegacy B _ hB => exact finished_inv hr hv hb hk hB
  | finishedFramed iv B _ hB => exact finished_inv hr hv hb hk hB
  | requested =>
    obtain ⟨hl, hd, he, ho, -⟩ := (sequencerOk_busy hc).mp hq
    exact ⟨hv, hb, hk, (sequencerOk_busy (s := s.withTrngReq true) hc).mpr ⟨hl, hd, he, ho, .inr rfl⟩,
      resetOk_of_rstN hr⟩
  | waited => exact hs

/-- A turn of the engine keeps the invariant. -/
theorem engineTurn_keeps_inv {s t : State} (hs : s.Inv) (h : engineTurn s = .next t) : t.Inv := by
  rcases engineTurn_cases h with ⟨rfl, -⟩ | ⟨hr, c, hc, -, he⟩
  · exact hs
  · exact classEffect_keeps_inv hr hs hc (exec_classEffect he)

/-! ### The reset line and the step -/

/-- Asserting reset establishes the invariant of reset (R40, R270). -/
theorem resetAsserted_inv {s : State} (hv : Config.validBufBytes s.bufBytes = true) : s.resetAsserted.Inv :=
  ⟨hv, ⟨rfl, rfl, rfl, rfl, Nat.zero_le _, fun _ _ h => absurd h (Nat.not_lt_zero _)⟩, ⟨rfl, fun _ => rfl⟩, rfl,
    fun _ => ⟨rfl, rfl, rfl, rfl, rfl, rfl, rfl, rfl, rfl, rfl, rfl, rfl⟩⟩

/-- Driving the reset line keeps the invariant (R270, R271). -/
theorem resetDriven_keeps_inv {s : State} (level : Bool) (hs : s.Inv) : (s.resetDriven level).Inv := by
  obtain ⟨hv, hb, hk, hq, -⟩ := hs
  cases level with
  | false => exact resetAsserted_inv hv
  | true => exact ⟨hv, hb, hk, hq, resetOk_of_rstN rfl⟩

/-- Every move of a step keeps the invariant. -/
theorem stepEffect_keeps_inv {s t : State} (hs : s.Inv) (h : StepEffect s t) : t.Inv := by
  cases h with
  | engine he => exact engineTurn_keeps_inv hs he
  | bus hx =>
    obtain ⟨hr, he⟩ := busTransaction_cases hx
    exact busEffect_keeps_inv hr hs he
  | engineAnd he hx =>
    obtain ⟨hr, hb⟩ := busTransaction_cases hx
    exact busEffect_keeps_inv hr (engineTurn_keeps_inv hs he) hb
  | trng v d => exact (inv_trngDriven v d s).mpr hs
  | rst level => exact resetDriven_keeps_inv level hs

/-- Settles O59: a step is one move, made with the move taken from the list, and each move keeps the invariant. -/
theorem stepKeepsInvariant : Obligations.StepKeepsInvariant := by
  intro s t hs h
  obtain ⟨l, he⟩ := step_cases h
  exact stepEffect_keeps_inv ((inv_withInputs l s).mpr hs) he

/-- Settles O58: with empty buffers and OUT_LEN = 0 nothing need be defined, and rst_n is high. -/
theorem invariantHoldsAtReset : Obligations.InvariantHoldsAtReset :=
  ⟨rfl, ⟨rfl, rfl, rfl, rfl, Nat.zero_le _, fun _ _ h => absurd h (Nat.not_lt_zero _)⟩, ⟨rfl, fun _ => rfl⟩, rfl,
    resetOk_of_rstN rfl⟩

end Sys2Proof.Proofs
end

section
/-! PROOFS. A step by the move at the head of the list, and the registers as the host reads and writes them
(10_state.md R28 to R38). -/

namespace Sys2Proof.Proofs

open Sys2Proof.Machine

variable {s : State} {rest : List Input}

/-! ### The step by its move -/

theorem step_nil (h : s.inputs = []) : step s = engineTurn s := by rw [step, h]

theorem step_cons {i : Input} (h : s.inputs = i :: rest) : step s = performInput i (s.withInputs rest) := by
  rw [step, h]

/-- The engine is held in reset (R270). -/
theorem engineTurn_in_reset (h : s.rstN = false) : engineTurn s = .next s := by
  rw [engineTurn, if_pos (by simp [h])]

/-- A transaction in reset has no transition (U13). -/
theorem busTransaction_in_reset (b : Bool) (x : BusTx) (h : s.rstN = false) :
    busTransaction b x s = .refused .busDuringReset := by
  simp [busTransaction, h]

theorem step_read (hr : s.rstN = true) {a : Addr} (h : s.inputs = .bus (.read a) :: rest) :
    step s = .next ((s.withInputs rest).busRead a) := by
  rw [step_cons h, performInput, busTransaction, if_neg (by simp [hr])]

theorem step_write (hr : s.rstN = true) {a : Addr} {w : Word} (h : s.inputs = .bus (.write a w) :: rest) :
    step s = busWrite false a w (s.withInputs rest) := by
  rw [step_cons h, performInput, busTransaction, if_neg (by simp [hr])]

/-! ### Registers -/

/-- What a register reads does not depend on the moves to come. -/
theorem readReg_withInputs (l : List Input) (r : Reg) : (s.withInputs l).readReg r = s.readReg r := by
  cases r <;> rfl

/-- A read of a register answers its value and changes nothing else, whatever SEQ is (R68, R69). -/
theorem step_read_reg (r : Reg) (hr : s.rstN = true) (h : s.inputs = .bus (.read (regAddr r)) :: rest) :
    step s = .next { s with inputs := rest, busResult := .read (s.readReg r) .okay } := by
  rw [step_read hr h, State.busRead, regAddr, placeOf_regAddr]
  simp only [readReg_withInputs]
  rfl

/-- A write of a register outside reset (R66, R67). -/
theorem step_write_reg (r : Reg) {w : Word} (hr : s.rstN = true) (h : s.inputs = .bus (.write (regAddr r) w) :: rest) :
    step s = writeReg false r w (s.withInputs rest) := by
  rw [step_write hr h, busWrite, regAddr, placeOf_regAddr]

/-- A write of an operand place is performed while IDLE (R67). -/
theorem operandWrite_idle (f : State → State) (h : s.seq = .idle) :
    s.operandWrite f = (f s).answered (.write .okay) := by
  rw [State.operandWrite, h]

/-- A write of STATUS outside the cycle of a completion: bit 1 clears DONE (R32). -/
theorem step_write_status {w : Word} (hr : s.rstN = true) (h : s.inputs = .bus (.write (regAddr .status) w) :: rest) :
    step s = .next { s with inputs := rest, busResult := .write .okay, done := s.done && !w.getLsbD 1 } := by
  rw [step_write_reg .status hr h]
  simp only [writeReg, State.statusWritten, Bool.not_false, Bool.and_true]
  rfl

/-- A write of CTRL sets IE from bit 0 (R30). -/
theorem step_write_ctrl {w : Word} (hr : s.rstN = true) (h : s.inputs = .bus (.write (regAddr .ctrl) w) :: rest) :
    step s = .next { s with inputs := rest, busResult := .write .okay, ie := w.getLsbD 0 } :=
  step_write_reg .ctrl hr h

/-- A write of IN_LEN0 while IDLE (R34). -/
theorem step_write_inLen0 {w : Word} (hr : s.rstN = true) (hq : s.seq = .idle)
    (h : s.inputs = .bus (.write (regAddr .inLen0) w) :: rest) :
    step s = .next { s with inLen0 := w, inputs := rest, busResult := .write .okay } := by
  rw [step_write_reg .inLen0 hr h]
  exact congrArg Host.Outcome.next (operandWrite_idle (s := s.withInputs rest) _ hq)

/-- A write of IN_LEN1 while IDLE (R35). -/
theorem step_write_inLen1 {w : Word} (hr : s.rstN = true) (hq : s.seq = .idle)
    (h : s.inputs = .bus (.write (regAddr .inLen1) w) :: rest) :
    step s = .next { s with inLen1 := w, inputs := rest, busResult := .write .okay } := by
  rw [step_write_reg .inLen1 hr h]
  exact congrArg Host.Outcome.next (operandWrite_idle (s := s.withInputs rest) _ hq)

/-! ### IV0 to IV3 -/

/-- Byte `i` of a 128-bit register (R26). -/
theorem blockBytes_getElem? (b : Block) {i : Nat} (h : i < 16) : (blockBytes b)[i]? = some (blockByte b i) := by
  simp [blockBytes, h]

/-- Lane `j` of IVk is byte `4k + j` of IV_REG (R38). -/
theorem ivWord_lane (s : State) (k : Nat) {j : Nat} (h : j < 4) :
    (s.ivWord k).extractLsb' (8 * j) 8 = blockByte s.ivReg (4 * k + j) := by
  obtain ⟨h0, h1, h2, h3⟩ := wordLane_wordOfLanes (blockByte s.ivReg (4 * k)) (blockByte s.ivReg (4 * k + 1))
    (blockByte s.ivReg (4 * k + 2)) (blockByte s.ivReg (4 * k + 3))
  match j, h with
  | 0, _ => exact h0
  | 1, _ => exact h1
  | 2, _ => exact h2
  | 3, _ => exact h3

/-- The registers IV0 to IV3 stand at 0x020 + 4k (R28, R38). -/
theorem exists_ivRegister {k : Nat} (h : k < 4) :
    ∃ r, regAddr r = BitVec.ofNat 18 (0x020 + 4 * k) ∧ ∀ s : State, s.readReg r = s.ivWord k :=
  match k, h with
  | 0, _ => ⟨.iv0, rfl, fun _ => rfl⟩
  | 1, _ => ⟨.iv1, rfl, fun _ => rfl⟩
  | 2, _ => ⟨.iv2, rfl, fun _ => rfl⟩
  | 3, _ => ⟨.iv3, rfl, fun _ => rfl⟩

end Sys2Proof.Proofs
end

section
/-! PROOFS. The obligations about single registers. -/

namespace Sys2Proof.Proofs

open Sys2Proof.Machine

/-- Settles O14: each register reads its field, and a write while IDLE sets that field. -/
theorem operandLengthWriteThenRead : Obligations.OperandLengthWriteThenRead := by
  refine ⟨fun s rest hr => ⟨step_read_reg .inLen0 hr, step_read_reg .inLen1 hr⟩,
    fun s w rest hr hq => ⟨fun h => ?_, fun h => ?_⟩⟩
  · exact ⟨_, step_write_inLen0 hr hq h, rfl, step_read_reg .inLen0 hr rfl⟩
  · exact ⟨_, step_write_inLen1 hr hq h, rfl, step_read_reg .inLen1 hr rfl⟩

/-- Settles O15: IVk is a register, and its lanes are bytes of IV_REG. -/
theorem ivRegistersReadIvRegInLanes : Obligations.IvRegistersReadIvRegInLanes := by
  intro s k rest hr hk h
  obtain ⟨r, ha, hread⟩ := exists_ivRegister hk
  rw [← ha] at h
  refine ⟨s.ivWord k, hread s ▸ step_read_reg r hr h, fun j hj => ?_⟩
  rw [ivWord_lane s k hj, blockBytes_getElem? _ (by omega)]

/-- IE is bit 0 of CTRL (R30). -/
theorem ctrlWord_eq (s : State) : s.ctrlWord = if s.ie then 1 else 0 := by
  cases h : s.ie <;> simp only [State.ctrlWord, h] <;> rfl

/-- Settles O16: each is a register read, CTRL by `ctrlWord_eq`. -/
theorem registerReadsReturnTheirValue : Obligations.RegisterReadsReturnTheirValue := fun s _ hr =>
  ⟨step_read_reg .id hr, fun h => ctrlWord_eq s ▸ step_read_reg .ctrl hr h, step_read_reg .status hr,
    step_read_reg .outLen hr, step_read_reg .bufSize hr⟩

/-- Settles O21: bit 1 decides whether DONE is cleared. -/
theorem statusWriteClearsOnlyDone : Obligations.StatusWriteClearsOnlyDone := by
  intro s w rest hr h
  have hstep := step_write_status hr h
  constructor
  · intro hw
    rwa [hw, Bool.not_true, Bool.and_false] at hstep
  · intro hw
    rwa [hw, Bool.not_false, Bool.and_true] at hstep

/-- Settles O23: the interrupt is computed from DONE and IE, each written by its own register. -/
theorem interruptFollowsDoneAndEnable : Obligations.InterruptFollowsDoneAndEnable := by
  intro s w rest hr
  refine ⟨Bool.and_eq_true_iff, fun h => ⟨_, step_write_ctrl hr h, rfl, rfl⟩,
    fun h hw => ⟨_, step_write_status hr h, ?_, rfl⟩⟩
  simp only [State.irq, hw, Bool.not_true, Bool.and_false, Bool.false_and]

/-- Settles O56, by evaluation of the one closed state. -/
theorem resetStateShowsResetValues : Obligations.ResetStateShowsResetValues :=
  ⟨rfl, rfl, rfl, rfl, rfl, rfl, rfl, rfl, rfl, rfl, rfl, rfl, rfl, rfl, rfl, rfl, rfl, rfl⟩

end Sys2Proof.Proofs
end

section
/-! PROOFS. The STATUS word bit by bit (10_state.md R32, 60_exceptions.md R242). -/

namespace Sys2Proof.Proofs

open Sys2Proof.Machine

/-- The number of an error code is at most 8 (R242). -/
theorem errCode_toNat_le (e : ErrCode) : (errCode e).toNat ≤ 8 := by
  cases e <;> decide

/-- The STATUS word by position (R32). -/
theorem statusWord_getLsbD (s : State) (i : Nat) :
    s.statusWord.getLsbD i =
      if i = 0 then s.busyBit
      else if i = 1 then s.done
      else if i = 2 then s.keyedBit
      else if i = 3 then s.kfailBit
      else if 8 ≤ i ∧ i ≤ 11 then (errCode s.err).getLsbD (i - 8)
      else if i = 16 then formatBit s.fmtUsed
      else false := by
  have hzero (w n : Nat) : (0 : BitVec w).getLsbD n = false := BitVec.getLsbD_zero
  simp only [State.statusWord, BitVec.getLsbD_append, BitVec.getLsbD_ofBool, hzero]
  rcases (by omega : i < 4 ∨ 4 ≤ i ∧ i < 8 ∨ 8 ≤ i ∧ i ≤ 11 ∨ 12 ≤ i ∧ i < 16 ∨ i = 16 ∨ 17 ≤ i) with
    h | h | h | h | h | h
  · interval_cases i <;> rfl
  · simp (disch := omega) only [if_neg, if_pos]
  · rw [show i - 8 = i - 1 - 1 - 1 - 1 - 4 by omega]
    simp (disch := omega) only [if_neg, if_pos]
  · simp (disch := omega) only [if_neg, if_pos]
  · subst h
    rfl
  · simp (disch := omega) only [if_neg]

/-- The field ERR of the STATUS word is the code's number (R32). -/
theorem statusWord_err (s : State) : s.statusWord.extractLsb' 8 4 = errCode s.err := by
  refine BitVec.eq_of_getLsbD_eq fun i hi => ?_
  rw [BitVec.getLsbD_extractLsb', statusWord_getLsbD, Nat.add_sub_cancel_left]
  simp (disch := omega) only [if_neg, if_pos, hi, decide_true, Bool.true_and]

/-- Settles O17: bit by bit from `statusWord_getLsbD`, and ERR as a field. -/
theorem statusWordShowsTheFields : Obligations.StatusWordShowsTheFields := by
  intro s
  have hkeyed : s.keyedBit = decide (s.kstate = .keyed) := rfl
  have hfail : s.kfailBit = decide (s.kstate = .failed) := rfl
  have hfmt : formatBit s.fmtUsed = decide (s.fmtUsed = .framed) := by cases h : s.fmtUsed <;> rfl
  refine ⟨fun i => ?_, ?_, ?_, ?_⟩
  · rw [statusWord_getLsbD, hkeyed, hfail, hfmt, State.busyBit]
  · rintro ⟨h2, h3⟩
    have hk : s.kstate = .keyed := of_decide_eq_true ((statusWord_getLsbD s 2).symm.trans h2)
    have hf : s.kstate = .failed := of_decide_eq_true ((statusWord_getLsbD s 3).symm.trans h3)
    exact absurd (hk.symm.trans hf) (by decide)
  · rw [statusWord_err]
    exact errCode_toNat_le s.err
  · intro e n hmem herr
    rw [statusWord_err, herr]
    simp only [List.mem_cons, Prod.mk.injEq, List.not_mem_nil, or_false] at hmem
    rcases hmem with ⟨rfl, rfl⟩ | ⟨rfl, rfl⟩ | ⟨rfl, rfl⟩ | ⟨rfl, rfl⟩ | ⟨rfl, rfl⟩ | ⟨rfl, rfl⟩ | ⟨rfl, rfl⟩ |
      ⟨rfl, rfl⟩ | ⟨rfl, rfl⟩ <;> rfl

end Sys2Proof.Proofs
end

section
/-! PROOFS. A bus transaction does not see the undefined bytes of OUT_BUF (10_state.md R33, 20_memory.md R68): it commutes
with replacing OUT_BUF by a memory that agrees on the defined bytes. -/

namespace Sys2Proof.Proofs

open Sys2Proof.Machine

/-- The state with another memory in OUT_BUF's place. -/
def withOutBuf (m : Memory) (s : State) : State := { s with outBuf := m }

/-- A memory agrees with OUT_BUF on the defined bytes: each view of a byte is as it was. -/
def AgreesOnDefined (m : Memory) (s : State) : Prop := ∀ i, (withOutBuf m s).outByte i = s.outByte i

/-- The two hypotheses of O19 say that the memory agrees where a byte is defined and where one is missing. -/
theorem agreesOnDefined_of_read {m : Memory} {s : State}
    (hsome : ∀ i b, s.outByte i = some b → Memory.read m i = some b)
    (hnone : ∀ i, s.seq = .idle → i < s.outLen.toNat → Memory.read s.outBuf i = none → Memory.read m i = none) :
    AgreesOnDefined m s := by
  intro i
  by_cases hi : s.seq = .idle ∧ i < s.outLen.toNat
  · have hs : s.outByte i = Memory.read s.outBuf i := if_pos hi
    have hm : (withOutBuf m s).outByte i = Memory.read m i := if_pos hi
    rw [hm, hs]
    cases hr : Memory.read s.outBuf i with
    | none => exact hnone i hi.1 hi.2 hr
    | some b => exact hsome i b (hs.trans hr)
  · have hs : s.outByte i = none := if_neg hi
    have hm : (withOutBuf m s).outByte i = none := if_neg hi
    rw [hm, hs]

/-- The undefined lanes are the same free values, so the whole word read is the same. -/
theorem outWord_withOutBuf {m : Memory} {s : State} (h : AgreesOnDefined m s) (o : Nat) :
    (withOutBuf m s).outWord o = s.outWord o := by
  have hlane (j : Nat) : (withOutBuf m s).outLane o j = s.outLane o j := by
    rw [State.outLane, State.outLane, h]
    rfl
  simp only [State.outWord, hlane]

theorem busRead_withOutBuf {m : Memory} {s : State} (h : AgreesOnDefined m s) (a : Addr) :
    (withOutBuf m s).busRead a = withOutBuf m (s.busRead a) := by
  have hn : (withOutBuf m s).bufBytes = s.bufBytes := rfl
  cases hp : placeOf s.bufBytes a with
  | none => rw [State.busRead, State.busRead, hn, hp]; rfl
  | some p =>
    cases p with
    | reg r => rw [State.busRead, State.busRead, hn, hp]; cases r <;> rfl
    | inBuf o => rw [State.busRead, State.busRead, hn, hp]; rfl
    | outBuf o =>
      rw [State.busRead, State.busRead, hn, hp]
      simp only [outWord_withOutBuf h]
      rfl

theorem operandWrite_withOutBuf {f : State → State} {m : Memory} {s : State}
    (hf : f (withOutBuf m s) = withOutBuf m (f s)) :
    (withOutBuf m s).operandWrite f = withOutBuf m (s.operandWrite f) := by
  have hq' : (withOutBuf m s).seq = s.seq := rfl
  rw [State.operandWrite, State.operandWrite, hq', hf]
  cases s.seq <;> rfl

theorem issueCommand_withOutBuf (m : Memory) {w : Word} {s t : State} (h : issueCommand w s = .next t) :
    issueCommand w (withOutBuf m s) = .next (withOutBuf m t) := by
  have hq' : (withOutBuf m s).seq = s.seq := rfl
  rw [issueCommand] at h ⊢
  rw [hq']
  cases hq : s.seq with
  | busy c =>
    rw [hq] at h
    cases h
    rfl
  | idle =>
    rw [hq] at h
    cases hc : (decodeWord w).isIllegal with
    | true =>
      simp only [hc, if_true, exec_of_isIllegal hc] at h ⊢
      cases h
      rfl
    | false =>
      simp only [hc] at h ⊢
      cases h
      rfl

theorem writeReg_withOutBuf (m : Memory) {b : Bool} {r : Reg} {w : Word} {s t : State}
    (h : writeReg b r w s = .next t) : writeReg b r w (withOutBuf m s) = .next (withOutBuf m t) := by
  cases r with
  | cmd => exact issueCommand_withOutBuf m h
  | inLen0 =>
    cases h
    exact congrArg Host.Outcome.next (operandWrite_withOutBuf rfl)
  | inLen1 =>
    cases h
    exact congrArg Host.Outcome.next (operandWrite_withOutBuf rfl)
  | _ =>
    cases h
    rfl

theorem busWrite_withOutBuf (m : Memory) {b : Bool} {a : Addr} {w : Word} {s t : State}
    (h : busWrite b a w s = .next t) : busWrite b a w (withOutBuf m s) = .next (withOutBuf m t) := by
  have hn : (withOutBuf m s).bufBytes = s.bufBytes := rfl
  rw [busWrite] at h ⊢
  rw [hn]
  cases hp : placeOf s.bufBytes a with
  | none =>
    rw [hp] at h
    cases h
    rfl
  | some p =>
    rw [hp] at h
    cases p with
    | reg r => exact writeReg_withOutBuf m h
    | inBuf o =>
      cases h
      exact congrArg Host.Outcome.next (operandWrite_withOutBuf rfl)
    | outBuf o =>
      cases h
      rfl

/-- A bus transaction commutes with replacing OUT_BUF by a memory that agrees on the defined bytes. -/
theorem busTransaction_withOutBuf {m : Memory} {b : Bool} {x : BusTx} {s t : State} (hm : AgreesOnDefined m s)
    (h : busTransaction b x s = .next t) : busTransaction b x (withOutBuf m s) = .next (withOutBuf m t) := by
  obtain ⟨hr, -⟩ := busTransaction_cases h
  have hr' : ¬¬(withOutBuf m s).rstN = true := not_not_intro hr
  cases x with
  | read a =>
    simp only [busTransaction, if_neg (not_not_intro hr)] at h
    cases h
    simp only [busTransaction, if_neg hr', busRead_withOutBuf hm]
  | write a w =>
    simp only [busTransaction, if_neg (not_not_intro hr)] at h
    simp only [busTransaction, if_neg hr', busWrite_withOutBuf m h]

/-- Settles O19: reads see OUT_BUF only through its defined bytes, and no write looks at it. -/
theorem undefinedOutputIsNotReadBack : Obligations.UndefinedOutputIsNotReadBack := by
  intro s m x rest t hin hsome hnone h
  rw [step_cons hin] at h
  rw [step_cons (s := { s with outBuf := m }) hin]
  exact busTransaction_withOutBuf (s := s.withInputs rest) (agreesOnDefined_of_read hsome hnone) h

end Sys2Proof.Proofs
end

section
/-! PROOFS. Who writes the key state and IV_REG (10_state.md R23, R24, R26). -/

namespace Sys2Proof.Proofs

open Sys2Proof.Machine

/-- KSTATE and CIPHER_KEY are as they were. -/
def KeyKept (s t : State) : Prop := t.kstate = s.kstate ∧ t.cipherKey = s.cipherKey

theorem not_keyKept {s t : State} (h : t.kstate ≠ s.kstate ∨ t.cipherKey ≠ s.cipherKey) : ¬KeyKept s t :=
  fun hk => h.elim (absurd hk.1) (absurd hk.2)

/-- No class but DERIVE writes the key state (R162). -/
theorem classEffect_keyKept {i : Instr} {s t : State} (h : ClassEffect s i t) (hi : i ≠ .derive) : KeyKept s t := by
  cases h with
  | derivationFailed | keyLoaded => exact absurd rfl hi
  | _ => exact ⟨rfl, rfl⟩

/-- No bus transaction writes the key state (R23, R24). -/
theorem busEffect_keyKept {s t : State} (h : BusEffect s t) : KeyKept s t := by
  cases h <;> exact ⟨rfl, rfl⟩

/-- A turn of the engine writes the key state only with DERIVE accepted, outside reset. -/
theorem engineTurn_keyKept_or_derive {s t : State} (h : engineTurn s = .next t) :
    KeyKept s t ∨ (s.seq = .busy .derive ∧ s.rstN = true) := by
  rcases engineTurn_cases h with ⟨rfl, -⟩ | ⟨hr, c, hc, -, he⟩
  · exact .inl ⟨rfl, rfl⟩
  · by_cases hd : c = .derive
    · exact .inr ⟨hd ▸ hc, hr⟩
    · exact .inl (classEffect_keyKept (exec_classEffect he) hd)

/-- A turn of the engine with a transaction in its cycle is the turn, then the transaction (R253). -/
theorem engineAndBus_cases {x : BusTx} {s u : State} (h : engineAndBus x s = .next u) :
    ∃ t, engineTurn s = .next t ∧ busTransaction (completedIn s t) x t = .next u := by
  rw [engineAndBus] at h
  cases ht : engineTurn s with
  | next t => rw [ht] at h; exact ⟨t, rfl, h⟩
  | fault r => rw [ht] at h; cases h
  | refused r => rw [ht] at h; cases h

/-- Settles O28: by the move at the head of the list. -/
theorem onlyDeriveAndResetWriteTheKey : Obligations.OnlyDeriveAndResetWriteTheKey := by
  intro s t h hch
  have hch := not_keyKept hch
  cases hin : s.inputs with
  | nil =>
    rw [step_nil hin] at h
    obtain ⟨hq, hr⟩ := (engineTurn_keyKept_or_derive h).resolve_left hch
    exact .inl ⟨hq, hr, .inl rfl⟩
  | cons i rest =>
    rw [step_cons hin] at h
    cases i with
    | bus x => exact absurd (busEffect_keyKept (busTransaction_cases h).2) hch
    | engine =>
      obtain ⟨hq, hr⟩ := (engineTurn_keyKept_or_derive h).resolve_left hch
      exact .inl ⟨hq, hr, .inr ⟨rest, .inl rfl⟩⟩
    | engineAnd x =>
      obtain ⟨u, hu, hx⟩ := engineAndBus_cases h
      obtain ⟨hks, hkey⟩ := busEffect_keyKept (busTransaction_cases hx).2
      rcases engineTurn_keyKept_or_derive hu with ⟨hks', hkey'⟩ | ⟨hq, hr⟩
      · exact absurd ⟨hks.trans hks', hkey.trans hkey'⟩ hch
      · exact .inl ⟨hq, hr, .inr ⟨rest, .inr ⟨x, rfl⟩⟩⟩
    | trng v d =>
      cases h
      exact absurd ⟨rfl, rfl⟩ hch
    | rst level =>
      cases h
      cases level with
      | true => exact absurd ⟨rfl, rfl⟩ hch
      | false => exact .inr ⟨rest, rfl⟩

/-- Settles O46: of the effects of the classes only the two Framed ones write IV_REG. -/
theorem onlyFramedOperationsWriteIvReg : Obligations.OnlyFramedOperationsWriteIvReg := by
  intro s t i h hch
  cases exec_classEffect h with
  | raisedIv iv e => exact ⟨.inl rfl, rfl⟩
  | finishedFramed iv B hi _ => exact ⟨hi, rfl⟩
  | _ => exact absurd rfl hch

end Sys2Proof.Proofs
end

section
/-! PROOFS. Reset (10_state.md R40, 70_reset_and_hazards.md R270 to R273). -/

namespace Sys2Proof.Proofs

open Sys2Proof.Machine

/-- With OUT_LEN = 0 no byte of OUT_BUF is defined (R33). -/
theorem outByte_of_outLen_zero {s : State} (h : s.outLen = 0) (i : Nat) : s.outByte i = none :=
  s.outByte_beyond (by simp [h])

/-- The interrupt is low while DONE is 0 (R41). -/
theorem irq_of_not_done {s : State} (h : s.done = false) : s.irq = false := by
  rw [State.irq, h, Bool.false_and]

/-- CTRL reads 0 with IE clear (R30). -/
theorem ctrlWord_zero {s : State} (h : s.ie = false) : s.ctrlWord = 0 := by
  rw [ctrlWord_eq, h]
  rfl

/-- STATUS reads 0 with every field at its reset value (R40). -/
theorem statusWord_zero {s : State} (hq : s.seq = .idle) (hd : s.done = false) (hk : s.kstate = .unkeyed)
    (he : s.err = .ok) (hf : s.fmtUsed = .legacy) : s.statusWord = 0 := by
  simp only [State.statusWord, State.busyBit, State.keyedBit, State.kfailBit, hq, hd, hk, he, hf]
  decide

/-- IVk reads 0 with IV_REG zero (R38, R40). -/
theorem ivWord_zero {s : State} (h : s.ivReg = 0) (k : Nat) : s.ivWord k = 0 := by
  have hbyte (i : Nat) : blockByte 0 i = 0 := BitVec.extractLsb'_zero ..
  simp only [State.ivWord, h, hbyte]
  decide

/-- Settles O55: asserting reset sets each element, and the views of them follow. -/
theorem resetPutsEveryElementAtItsResetValue : Obligations.ResetPutsEveryElementAtItsResetValue := by
  intro s rest h
  refine ⟨(s.withInputs rest).resetAsserted, by rw [step_cons h]; rfl, rfl, rfl, rfl, rfl, rfl, rfl, ctrlWord_zero rfl,
    statusWord_zero rfl rfl rfl rfl rfl, rfl, rfl, rfl, rfl, rfl, ivWord_zero rfl 0, ivWord_zero rfl 1, ivWord_zero rfl 2,
    ivWord_zero rfl 3, fun _ => rfl, outByte_of_outLen_zero rfl, irq_of_not_done rfl, rfl, rfl, rfl⟩

/-- Settles O57: the values are the invariant's clause for reset; each move is one equation of the step. -/
theorem heldInReset : Obligations.HeldInReset := by
  refine ⟨fun s rest hs hr => ⟨?_, fun h => ?_, fun h => ?_, fun x h => ?_, fun x h => ?_⟩,
    fun s rest => ⟨fun h => step_cons h, fun v d h => step_cons h⟩⟩
  · obtain ⟨-, -, ⟨htk, hck⟩, -, hreset⟩ := hs
    obtain ⟨hq, hk, hiv, hie, hd, he, hf, hl0, hl1, hol, hin, htr⟩ := hreset hr
    exact ⟨hq, hk, hck (by rw [hk]; decide), htk, hiv, ctrlWord_zero hie, statusWord_zero hq hd hk he hf, hl0, hl1, hol,
      fun _ => by rw [hin]; rfl, outByte_of_outLen_zero hol, irq_of_not_done hd, htr⟩
  · rw [step_nil h, engineTurn_in_reset hr]
  · rw [step_cons h]
    exact engineTurn_in_reset (s := s.withInputs rest) hr
  · rw [step_cons h]
    exact busTransaction_in_reset (s := s.withInputs rest) false x hr
  · rw [step_cons h, performInput, engineAndBus, engineTurn_in_reset (s := s.withInputs rest) hr]
    exact busTransaction_in_reset (s := s.withInputs rest) _ x hr

end Sys2Proof.Proofs
end

section
/-! PROOFS. The address map by cases of the address (10_state.md R28, R39, 20_memory.md R62 to R64): which addresses
reach nothing, a register, or a word of a window. -/

namespace Sys2Proof.Proofs

open Sys2Proof.Machine

/-- Past the twelve registers the register block is reserved (R39). -/
theorem regAt_eq_none {n : Nat} (h : 0x30 ≤ n) : regAt n = none := by
  -- the last equation of `regAt` asks that `n` is none of the twelve offsets
  rw [regAt] <;> omega

/-- Every aligned offset below 0x30 is that of a register (R28). -/
theorem regAt_isSome {n : Nat} (h4 : n % 4 = 0) (hlt : n < 0x30) : (regAt n).isSome = true := by
  have hblock : ∀ k < 12, (regAt (4 * k)).isSome = true := by decide
  obtain ⟨k, rfl⟩ := Nat.dvd_of_mod_eq_zero h4
  exact hblock k (by omega)

/-- An address with an aligned offset below 0x30 reaches a register (R28). -/
theorem exists_reg_place (n : Nat) {a : Addr} (h4 : a.toNat % 4 = 0) (hlt : a.toNat < 0x30) :
    ∃ r, placeOf n a = some (.reg r) := by
  obtain ⟨r, hr⟩ := Option.isSome_iff_exists.mp (regAt_isSome h4 hlt)
  have hblock : a.toNat < inBufBase := hlt.trans (by decide)
  refine ⟨r, ?_⟩
  simp only [placeOf, if_neg (not_not_intro h4), if_pos hblock, hr]
  rfl

/-- A misaligned address reaches nothing (R63). -/
theorem placeOf_misaligned (n : Nat) {a : Addr} (h : a.toNat % 4 ≠ 0) : placeOf n a = none := if_pos h

/-- A reserved offset reaches nothing (R39, R64). -/
theorem placeOf_reserved {n : Nat} {a : Addr}
    (h : (0x30 ≤ a.toNat ∧ a.toNat < 0x10000) ∨ (0x10000 + n ≤ a.toNat ∧ a.toNat < 0x20000) ∨
      (0x20000 + n ≤ a.toNat ∧ a.toNat < 0x30000) ∨ 0x30000 ≤ a.toNat) : placeOf n a = none := by
  have hin : inBufBase = 0x10000 := rfl
  have hout : outBufBase = 0x20000 := rfl
  simp only [placeOf]
  split_ifs with hmis hreg hwin hlt hwout hlt'
  · rfl
  · rw [regAt_eq_none (by omega)]
    rfl
  · omega
  · rfl
  · omega
  · rfl
  · rfl

/-- The converse of `placeOf_inBuf`: an aligned address within the IN_BUF window reaches its word (R62). -/
theorem placeOf_of_inBuf {n o : Nat} {a : Addr} (ha : a.toNat = 0x10000 + o) (h4 : o % 4 = 0) (ho : o < n)
    (hhi : o < 0x10000) : placeOf n a = some (.inBuf o) := by
  simp only [placeOf, inBufBase, outBufBase, ha, Nat.add_sub_cancel_left]
  simp (disch := omega) only [if_neg, if_pos]

/-- The converse of `placeOf_outBuf`: an aligned address within the OUT_BUF window reaches its word (R62). -/
theorem placeOf_of_outBuf {n o : Nat} {a : Addr} (ha : a.toNat = 0x20000 + o) (h4 : o % 4 = 0) (ho : o < n)
    (hhi : o < 0x10000) : placeOf n a = some (.outBuf o) := by
  simp only [placeOf, inBufBase, outBufBase, ha, Nat.add_sub_cancel_left]
  simp (disch := omega) only [if_neg, if_pos]

/-- An address of 18 bits is the number it is written as. -/
theorem addr_toNat {n : Nat} (h : n < 0x40000) : (BitVec.ofNat 18 n).toNat = n := by
  rw [BitVec.toNat_ofNat, Nat.mod_eq_of_lt h]

/-- `IN_BUF+o` for an aligned offset within the buffer (R12, R62). -/
theorem placeOf_inBufAddr {n o : Nat} (hv : Config.validBufBytes n = true) (h4 : o % 4 = 0) (ho : o < n) :
    placeOf n (BitVec.ofNat 18 (0x10000 + o)) = some (.inBuf o) := by
  obtain ⟨-, -, hle⟩ := validBufBytes_iff.mp hv
  exact placeOf_of_inBuf (addr_toNat (by omega)) h4 ho (by omega)

/-- `OUT_BUF+o` for an aligned offset within the buffer (R12, R62). -/
theorem placeOf_outBufAddr {n o : Nat} (hv : Config.validBufBytes n = true) (h4 : o % 4 = 0) (ho : o < n) :
    placeOf n (BitVec.ofNat 18 (0x20000 + o)) = some (.outBuf o) := by
  obtain ⟨-, -, hle⟩ := validBufBytes_iff.mp hv
  exact placeOf_of_outBuf (addr_toNat (by omega)) h4 ho (by omega)

/-- An implemented word address, in the register block or in a window, reaches a place (R62). -/
theorem exists_place {n : Nat} {a : Addr} (h4 : a.toNat % 4 = 0)
    (h : a.toNat < 0x30 ∨ (0x10000 ≤ a.toNat ∧ a.toNat < 0x10000 + n ∧ a.toNat < 0x20000) ∨
      (0x20000 ≤ a.toNat ∧ a.toNat < 0x20000 + n ∧ a.toNat < 0x30000)) : ∃ p, placeOf n a = some p := by
  rcases h with h | h | h
  · obtain ⟨r, hr⟩ := exists_reg_place n h4 h
    exact ⟨_, hr⟩
  · exact ⟨_, placeOf_of_inBuf (o := a.toNat - 0x10000) (by omega) (by omega) (by omega) (by omega)⟩
  · exact ⟨_, placeOf_of_outBuf (o := a.toNat - 0x20000) (by omega) (by omega) (by omega) (by omega)⟩

end Sys2Proof.Proofs
end

section
/-! PROOFS. The step of a bus transaction by the place of its address (20_memory.md R63 to R69), and the words of the
windows by lanes (R65, R68). -/

namespace Sys2Proof.Proofs

open Sys2Proof.Machine

variable {s : State} {rest : List Input} {a : Addr} {w : Word}

/-! ### Reads -/

/-- A read that reaches nothing gets ERROR and data 0 (R63, R64). -/
theorem step_read_nowhere (hr : s.rstN = true) (hp : placeOf s.bufBytes a = none)
    (h : s.inputs = .bus (.read a) :: rest) :
    step s = .next { s with inputs := rest, busResult := .read 0 .error } := by
  rw [step_read hr h, State.busRead, State.withInputs_bufBytes, hp]
  rfl

/-- A read of the IN_BUF window answers the stored word, whatever SEQ is (R65, R68). -/
theorem step_read_inBuf {o : Nat} (hr : s.rstN = true) (hp : placeOf s.bufBytes a = some (.inBuf o))
    (h : s.inputs = .bus (.read a) :: rest) :
    step s = .next { s with inputs := rest, busResult := .read (s.inWord o) .okay } := by
  rw [step_read hr h, State.busRead, State.withInputs_bufBytes, hp]
  rfl

/-- A read of the OUT_BUF window answers the word of its lanes and uses up four free values (R65, R68; log 7). -/
theorem step_read_outBuf {o : Nat} (hr : s.rstN = true) (hp : placeOf s.bufBytes a = some (.outBuf o))
    (h : s.inputs = .bus (.read a) :: rest) :
    step s =
      .next { s with inputs := rest, busResult := .read (s.outWord o) .okay, outDraws := s.outDraws + 4 } := by
  rw [step_read hr h, State.busRead, State.withInputs_bufBytes, hp]
  rfl

/-- A read that reaches a place is answered OKAY; only the answer and the count of free bytes change (R69). -/
theorem step_read_place {p : Place} (hr : s.rstN = true) (hp : placeOf s.bufBytes a = some p)
    (h : s.inputs = .bus (.read a) :: rest) :
    ∃ d n, step s = .next { s with inputs := rest, busResult := .read d .okay, outDraws := n } := by
  cases p with
  | reg r =>
    refine ⟨s.readReg r, s.outDraws, ?_⟩
    rw [step_read hr h, State.busRead, State.withInputs_bufBytes, hp]
    simp only [readReg_withInputs]
    rfl
  | inBuf o => exact ⟨_, s.outDraws, step_read_inBuf hr hp h⟩
  | outBuf o => exact ⟨_, _, step_read_outBuf hr hp h⟩

/-! ### Writes -/

/-- A write that reaches nothing gets ERROR (R63, R64). -/
theorem step_write_nowhere (hr : s.rstN = true) (hp : placeOf s.bufBytes a = none)
    (h : s.inputs = .bus (.write a w) :: rest) :
    step s = .next { s with inputs := rest, busResult := .write .error } := by
  rw [step_write hr h, busWrite, State.withInputs_bufBytes, hp]
  rfl

/-- A write of the OUT_BUF window is ignored (R66). -/
theorem step_write_outBuf {o : Nat} (hr : s.rstN = true) (hp : placeOf s.bufBytes a = some (.outBuf o))
    (h : s.inputs = .bus (.write a w) :: rest) :
    step s = .next { s with inputs := rest, busResult := .write .okay } := by
  rw [step_write hr h, busWrite, State.withInputs_bufBytes, hp]
  rfl

/-- A write of the IN_BUF window is an operand write (R67). -/
theorem step_write_inBuf {o : Nat} (hr : s.rstN = true) (hp : placeOf s.bufBytes a = some (.inBuf o))
    (h : s.inputs = .bus (.write a w) :: rest) :
    step s = .next ((s.withInputs rest).operandWrite (·.inWordWritten o w)) := by
  rw [step_write hr h, busWrite, State.withInputs_bufBytes, hp]

/-- A write of the IN_BUF window while IDLE stores the word (R65). -/
theorem step_write_inBuf_idle {o : Nat} (hr : s.rstN = true) (hq : s.seq = .idle)
    (hp : placeOf s.bufBytes a = some (.inBuf o)) (h : s.inputs = .bus (.write a w) :: rest) :
    step s =
      .next { s with inBuf := (s.inWordWritten o w).inBuf, inputs := rest, busResult := .write .okay } := by
  rw [step_write_inBuf hr hp h, operandWrite_idle (s := s.withInputs rest) _ hq]
  rfl

/-! ### While BUSY -/

theorem isBusy_iff : s.seq.isBusy = true ↔ ∃ c, s.seq = .busy c := by
  cases s.seq <;> simp [Seq.isBusy]

/-- A write of an operand place is refused while BUSY (R67). -/
theorem operandWrite_busy (f : State → State) {c : Instr} (hq : s.seq = .busy c) :
    s.operandWrite f = s.answered (.write .error) := by
  rw [State.operandWrite, hq]

/-- A write of CMD or of an operand length is refused while BUSY (R67, R150). -/
theorem writeReg_busy {r : Reg} {c : Instr} (b : Bool) (w : Word) (hq : s.seq = .busy c)
    (h : r = .cmd ∨ r = .inLen0 ∨ r = .inLen1) : writeReg b r w s = .next (s.answered (.write .error)) := by
  rcases h with rfl | rfl | rfl
  · rw [writeReg, issueCommand, hq]
  · rw [writeReg, operandWrite_busy _ hq]
  · rw [writeReg, operandWrite_busy _ hq]

/-- A write of CMD or of an operand length while BUSY has no effect (R67). -/
theorem step_write_reg_busy {r : Reg} {c : Instr} (hr : s.rstN = true) (hq : s.seq = .busy c)
    (hreg : r = .cmd ∨ r = .inLen0 ∨ r = .inLen1) (h : s.inputs = .bus (.write (regAddr r) w) :: rest) :
    step s = .next { s with inputs := rest, busResult := .write .error } := by
  rw [step_write_reg r hr h]
  exact writeReg_busy (s := s.withInputs rest) false w hq hreg

/-- A write of the IN_BUF window while BUSY has no effect (R67). -/
theorem step_write_inBuf_busy {o : Nat} {c : Instr} (hr : s.rstN = true) (hq : s.seq = .busy c)
    (hp : placeOf s.bufBytes a = some (.inBuf o)) (h : s.inputs = .bus (.write a w) :: rest) :
    step s = .next { s with inputs := rest, busResult := .write .error } := by
  rw [step_write_inBuf hr hp h, operandWrite_busy (s := s.withInputs rest) _ hq]
  rfl

/-- Outside reset the engine's turn runs the accepted command (R77, R150). -/
theorem engineTurn_busy {c : Instr} (hr : s.rstN = true) (hq : s.seq = .busy c) (hc : c.isIllegal = false) :
    engineTurn s = exec c s := by
  rw [engineTurn, if_neg (not_not_intro hr), hq]
  simp only [hc]
  rfl

/-! ### Lanes -/

/-- Lane `j` of the word of four bytes is byte `j` (R65). -/
theorem wordOfLanes_lane (f : Nat → Byte) {j : Nat} (hj : j < 4) :
    (wordOfLanes (f 0) (f 1) (f 2) (f 3)).extractLsb' (8 * j) 8 = f j := by
  obtain ⟨h0, h1, h2, h3⟩ := wordLane_wordOfLanes (f 0) (f 1) (f 2) (f 3)
  match j, hj with
  | 0, _ => exact h0
  | 1, _ => exact h1
  | 2, _ => exact h2
  | 3, _ => exact h3

/-- Lane `j` of a word of IN_BUF is the byte at `o + j` (R65). -/
theorem inWord_lane (s : State) (o : Nat) {j : Nat} (hj : j < 4) :
    (s.inWord o).extractLsb' (8 * j) 8 = s.inByte (o + j) :=
  wordOfLanes_lane (fun j => s.inByte (o + j)) hj

/-- The word of IN_BUF whose bytes are the lanes of `w` is `w` (R65). -/
theorem inWord_of_lanes {o : Nat} (h : ∀ j, j < 4 → s.inByte (o + j) = wordLane w j) : s.inWord o = w := by
  have h0 : s.inByte o = wordLane w 0 := h 0 (by omega)
  rw [State.inWord, h0, h 1 (by omega), h 2 (by omega), h 3 (by omega), wordOfLanes_wordLane]

/-- A read of the IN_BUF window where the bytes are the lanes of `w` answers `w` (R65). -/
theorem step_read_inBuf_of_lanes {o : Nat} (hr : s.rstN = true) (hp : placeOf s.bufBytes a = some (.inBuf o))
    (hw : ∀ j, j < 4 → s.inByte (o + j) = wordLane w j) (h : s.inputs = .bus (.read a) :: rest) :
    step s = .next { s with inputs := rest, busResult := .read w .okay } := by
  rw [step_read_inBuf hr hp h, inWord_of_lanes hw]

/-- Lane `j` of a word of OUT_BUF is the byte at `o + j` where it is defined (R65, R68). -/
theorem outWord_lane {o j : Nat} {b : Byte} (hj : j < 4) (hb : s.outByte (o + j) = some b) :
    (s.outWord o).extractLsb' (8 * j) 8 = b := by
  have hlane : s.outLane o j = b := by rw [State.outLane, hb, Option.getD_some]
  exact (wordOfLanes_lane (s.outLane o) hj).trans hlane

/-- A byte of IN_BUF that the host has written is what it wrote (R33). -/
theorem inByte_of_read {i : Nat} {b : Byte} (h : Memory.read s.inBuf i = some b) : s.inByte i = b := by
  rw [State.inByte, h, Option.getD_some]

/-- Lane `j` of the word written is stored at `o + j` (R65). -/
theorem inWordWritten_read_lane (s : State) (o : Nat) (w : Word) {j : Nat} (hj : j < 4) :
    Memory.read (s.inWordWritten o w).inBuf (o + j) = some (wordLane w j) := by
  have hin : o ≤ o + j ∧ o + j < o + [wordLane w 0, wordLane w 1, wordLane w 2, wordLane w 3].length :=
    ⟨Nat.le_add_right o j, Nat.add_lt_add_left hj o⟩
  rw [State.inWordWritten_inBuf, Memory.read_writeBytes, if_pos hin, Nat.add_sub_cancel_left]
  match j, hj with
  | 0, _ => rfl
  | 1, _ => rfl
  | 2, _ => rfl
  | 3, _ => rfl

/-- A word written leaves every index outside it as it was (R65). -/
theorem inWordWritten_read_outside (s : State) {o i : Nat} (w : Word) (h : i < o ∨ o + 4 ≤ i) :
    Memory.read (s.inWordWritten o w).inBuf i = Memory.read s.inBuf i := by
  have hout : ¬(o ≤ i ∧ i < o + [wordLane w 0, wordLane w 1, wordLane w 2, wordLane w 3].length) := by
    simp only [List.length_cons, List.length_nil]
    omega
  rw [State.inWordWritten_inBuf, Memory.read_writeBytes, if_neg hout]

/-- The bytes of the word just written are its lanes (R65). -/
theorem inWordWritten_inByte (s : State) (o : Nat) (w : Word) :
    ∀ j, j < 4 → (s.inWordWritten o w).inByte (o + j) = wordLane w j :=
  fun _ hj => inByte_of_read (inWordWritten_read_lane s o w hj)

end Sys2Proof.Proofs
end

section
/-! PROOFS. The obligations about the bus slave and the turn of the engine (20_memory.md R61 to R77). -/

namespace Sys2Proof.Proofs

open Sys2Proof.Machine

/-- Settles O8: a misaligned address reaches nothing. -/
theorem misalignedAccessGetsError : Obligations.MisalignedAccessGetsError := fun s _ _ hr ha =>
  have hp := placeOf_misaligned s.bufBytes ha
  ⟨step_read_nowhere hr hp, fun _ => step_write_nowhere hr hp⟩

/-- Settles O9: a reserved offset reaches nothing. -/
theorem reservedOffsetGetsError : Obligations.ReservedOffsetGetsError := fun _ _ _ hr ha =>
  have hp := placeOf_reserved ha
  ⟨step_read_nowhere hr hp, fun _ => step_write_nowhere hr hp⟩

/-- Settles O10: by the place written; each read-only register answers and does nothing else. -/
theorem readOnlyWritesAreIgnored : Obligations.ReadOnlyWritesAreIgnored := by
  refine fun s a w rest hr => ⟨fun h => ⟨?_, ?_, ?_⟩, step_read_reg .cmd hr⟩
  · rintro (rfl | rfl | rfl | rfl | rfl | rfl | rfl | ⟨h4, hlo, hn, hhi⟩)
    · exact step_write_reg .id hr h
    · exact step_write_reg .outLen hr h
    · exact step_write_reg .bufSize hr h
    · exact step_write_reg .iv0 hr h
    · exact step_write_reg .iv1 hr h
    · exact step_write_reg .iv2 hr h
    · exact step_write_reg .iv3 hr h
    · have hp : placeOf s.bufBytes a = some (.outBuf (a.toNat - 0x20000)) :=
        placeOf_of_outBuf (by omega) (by omega) (by omega) (by omega)
      exact step_write_outBuf hr hp h
  · rintro rfl
    exact ⟨_, step_write_status hr h⟩
  · rintro rfl
    exact step_write_ctrl hr h

/-- Settles O11: operand and CMD writes are refused; CTRL, STATUS and reads do not look at SEQ. -/
theorem busyRefusesOperandWrites : Obligations.BusyRefusesOperandWrites := by
  intro s rest hr hbusy
  obtain ⟨c, hq⟩ := isBusy_iff.mp hbusy
  refine ⟨fun a w h => ⟨?_, ?_, ?_⟩, fun a h ⟨h4, ha⟩ => ?_⟩
  · rintro (rfl | rfl | rfl | ⟨h4, hlo, hn, hhi⟩)
    · exact step_write_reg_busy (r := .cmd) hr hq (.inl rfl) h
    · exact step_write_reg_busy (r := .inLen0) hr hq (.inr (.inl rfl)) h
    · exact step_write_reg_busy (r := .inLen1) hr hq (.inr (.inr rfl)) h
    · have hp : placeOf s.bufBytes a = some (.inBuf (a.toNat - 0x10000)) :=
        placeOf_of_inBuf (by omega) (by omega) (by omega) (by omega)
      exact step_write_inBuf_busy hr hq hp h
  · rintro rfl
    exact step_write_ctrl hr h
  · rintro rfl
    exact step_write_status hr h
  · obtain ⟨p, hp⟩ := exists_place h4 ha
    obtain ⟨d, n, hstep⟩ := step_read_place hr hp h
    exact ⟨_, d, hstep, rfl⟩

/-- Settles O12: by whether the address reaches a place. -/
theorem readsHaveNoSideEffect : Obligations.ReadsHaveNoSideEffect := by
  intro s a rest hr h
  cases hp : placeOf s.bufBytes a with
  | none => exact ⟨0, .error, s.outDraws, step_read_nowhere hr hp h⟩
  | some p =>
    obtain ⟨d, n, hstep⟩ := step_read_place hr hp h
    exact ⟨d, .okay, n, hstep⟩

/-- Settles O13: the read by lanes, and the write by what it stores in and outside its word. -/
theorem inBufWordWriteThenRead : Obligations.InBufWordWriteThenRead := by
  constructor
  · intro s o rest hr hv h4 ho h
    refine ⟨s.inWord o, step_read_inBuf hr (placeOf_inBufAddr hv h4 ho) h, fun j hj => inWord_lane s o hj,
      fun j b hj hb => ?_⟩
    rw [inWord_lane s o hj, inByte_of_read hb]
  · intro s o w rest hr hq hv h4 ho h
    have hp := placeOf_inBufAddr hv h4 ho
    have hlanes := inWordWritten_inByte s o w
    exact ⟨_, _, step_write_inBuf_idle hr hq hp h, step_read_inBuf_of_lanes hr hp hlanes rfl, hlanes,
      fun i hi => inWordWritten_read_outside s w hi, rfl, rfl⟩

/-- Settles O20: the word read by lanes. -/
theorem outBufReadReturnsDefinedBytes : Obligations.OutBufReadReturnsDefinedBytes := fun _ _ _ hr hv h4 ho h =>
  ⟨_, _, step_read_outBuf hr (placeOf_outBufAddr hv h4 ho) h, fun _ _ hj hb => outWord_lane hj hb⟩

/-- Settles O5: both moves are a turn of the engine, which runs the accepted command. -/
theorem stepRunsTheAcceptedCommand : Obligations.StepRunsTheAcceptedCommand := by
  refine fun s c hr hq hc => ⟨fun h => ?_, fun rest h => ?_⟩
  · rw [step_nil h, engineTurn_busy hr hq hc]
  · rw [step_cons h]
    exact engineTurn_busy (s := s.withInputs rest) hr hq hc

/-- Settles O18: the sequencer's promise while BUSY, seen through STATUS, OUT_LEN and OUT_BUF. -/
theorem busyShowsNoResult : Obligations.BusyShowsNoResult := by
  rintro s ⟨-, -, -, hseq, -⟩ hbusy
  obtain ⟨c, hq⟩ := isBusy_iff.mp hbusy
  obtain ⟨-, hdone, herr, hlen, -⟩ := (sequencerOk_busy hq).mp hseq
  refine ⟨(statusWord_getLsbD s 0).trans hbusy, (statusWord_getLsbD s 1).trans hdone, ?_, hlen, s.outByte_busy hq⟩
  rw [statusWord_err, herr]
  rfl

end Sys2Proof.Proofs
end

section
/-! PROOFS. The obligations about the command word (30_encoding.md R90 to R96). The classes of R93 and R95 stand as one
relation between words and instructions, `Reads`; `decodeWord` and `encodeWord` are its two readings. -/

namespace Sys2Proof.Proofs

open Sys2Proof.Machine Sys2Proof.Laws

/-! ### The fields of a word -/

/-- A word has no bit outside its three fields (R90). -/
theorem cmdWord_fields (w : Word) : cmdWord (cmdOp w) (cmdFmt w) (cmdRsvd w) = w := by
  refine BitVec.eq_of_getLsbD_eq fun i hi => ?_
  simp only [cmdWord, cmdOp, cmdFmt, cmdRsvd, BitVec.getLsbD_append, BitVec.getLsbD_extractLsb']
  split
  · next hop => simp [hop]
  · split
    · next hfmt => simp [hfmt, show 4 + (i - 4) = i by omega]
    · simp [show i - 4 - 4 < 24 by omega, show 8 + (i - 4 - 4) = i by omega]

/-- The fields that are those of no illegal word (R95). -/
theorem illegalFields_eq_false {op fmt : BitVec 4} {rsvd : BitVec 24} :
    illegalFields op fmt rsvd = false ↔ rsvd = 0 ∧ (op = 1 ∧ fmt = 0 ∨ op = 2 ∧ fmt = 0 ∨ op = 3) := by
  have hop : ∀ op fmt : BitVec 4, illegalFields op fmt 0 = false ↔ op = 1 ∧ fmt = 0 ∨ op = 2 ∧ fmt = 0 ∨ op = 3 := by
    decide
  by_cases hr : rsvd = 0
  · rw [hr, hop, and_iff_right rfl]
  · have hill : illegalFields op fmt rsvd = true := by rw [illegalFields, bne_iff_ne.mpr hr, Bool.true_or, Bool.true_or]
    rw [hill]
    exact ⟨nofun, fun h => absurd h.1 hr⟩

/-- `decodeWord` by the fields of the word (R93). -/
theorem decodeWord_cmdWord (op fmt : BitVec 4) (rsvd : BitVec 24) :
    decodeWord (cmdWord op fmt rsvd) =
      if rsvd ≠ 0 then .illegal op fmt rsvd
      else if op = 1 ∧ fmt = 0 then .derive
      else if op = 2 ∧ fmt = 0 then .decrypt
      else if op = 3 then encryptClass fmt
      else .illegal op fmt rsvd := by
  obtain ⟨hop, hfmt, hrsvd⟩ := EncodingFields.fields_cmdWord op fmt rsvd
  rw [decodeWord, hop, hfmt, hrsvd]

/-- The words of R95 decode to ILLEGAL with their fields. -/
theorem decodeWord_of_illegalFields {op fmt : BitVec 4} {rsvd : BitVec 24} (h : illegalFields op fmt rsvd = true) :
    decodeWord (cmdWord op fmt rsvd) = .illegal op fmt rsvd := by
  rw [decodeWord_cmdWord]
  by_cases hr : rsvd = 0
  · have hnone : ¬(op = 1 ∧ fmt = 0 ∨ op = 2 ∧ fmt = 0 ∨ op = 3) := fun hsome => by
      rw [illegalFields_eq_false.mpr ⟨hr, hsome⟩] at h
      cases h
    obtain ⟨hderive, hdecrypt, hencrypt⟩ := by simpa only [not_or] using hnone
    rw [if_neg (not_not.mpr hr), if_neg hderive, if_neg hdecrypt, if_neg hencrypt]
  · rw [if_pos hr]

/-! ### The ENCRYPT classes -/

/-- The ENCRYPT class of a format is a legal one (R92). -/
theorem encryptClass_wf : ∀ fmt : BitVec 4, (encryptClass fmt).wf = true := by decide

/-- The word of a format's ENCRYPT class (R92, R94). -/
theorem encodeWord_encryptClass : ∀ fmt : BitVec 4, encodeWord (encryptClass fmt) = cmdWord 3 fmt 0 := by decide

/-- The legal classes are DERIVE, DECRYPT and one ENCRYPT for each format (R91, R92). -/
theorem legal_cases {i : Instr} (h : i.isIllegal = false) :
    i = .derive ∨ i = .decrypt ∨ ∃ fmt, i = encryptClass fmt := by
  cases i with
  | illegal => cases h
  | _ => decide

/-! ### The classes of words -/

/-- R93 and R95 as a relation: `Reads w i` when `i` is the class of the word `w`. -/
inductive Reads : Word → Instr → Prop
  | derive : Reads (cmdWord 1 0 0) .derive
  | decrypt : Reads (cmdWord 2 0 0) .decrypt
  | encrypt (fmt : BitVec 4) : Reads (cmdWord 3 fmt 0) (encryptClass fmt)
  | illegal {op fmt : BitVec 4} {rsvd : BitVec 24} (h : illegalFields op fmt rsvd = true) :
      Reads (cmdWord op fmt rsvd) (.illegal op fmt rsvd)

/-- Every word has a class (R93). -/
theorem exists_reads (w : Word) : ∃ i, Reads w i := by
  rw [← cmdWord_fields w]
  generalize cmdOp w = op, cmdFmt w = fmt, cmdRsvd w = rsvd
  cases h : illegalFields op fmt rsvd with
  | true => exact ⟨_, .illegal h⟩
  | false =>
    obtain ⟨rfl, ⟨rfl, rfl⟩ | ⟨rfl, rfl⟩ | rfl⟩ := illegalFields_eq_false.mp h
    · exact ⟨_, .derive⟩
    · exact ⟨_, .decrypt⟩
    · exact ⟨_, .encrypt fmt⟩

/-- A word decodes to its class, so it has no other (R93). -/
theorem Reads.decodeWord_eq {w : Word} {i : Instr} (h : Reads w i) : decodeWord w = i := by
  cases h with
  | derive => rfl
  | decrypt => rfl
  | encrypt fmt => exact decodeWord_cmdWord 3 fmt 0
  | illegal h => exact decodeWord_of_illegalFields h

theorem decodeWord_eq_iff_reads {w : Word} {i : Instr} : decodeWord w = i ↔ Reads w i := by
  refine ⟨?_, Reads.decodeWord_eq⟩
  rintro rfl
  obtain ⟨i, h⟩ := exists_reads w
  rwa [h.decodeWord_eq]

/-- The instructions that are read from some word are the well-formed ones, each from the word that encodes it (R94). -/
theorem reads_iff {w : Word} {i : Instr} : Reads w i ↔ i.wf = true ∧ encodeWord i = w := by
  constructor
  · intro h
    cases h with
    | derive => exact ⟨rfl, rfl⟩
    | decrypt => exact ⟨rfl, rfl⟩
    | encrypt fmt => exact ⟨encryptClass_wf fmt, encodeWord_encryptClass fmt⟩
    | illegal h => exact ⟨h, rfl⟩
  · rintro ⟨hwf, rfl⟩
    cases hi : i.isIllegal with
    | false =>
      obtain rfl | rfl | ⟨fmt, rfl⟩ := legal_cases hi
      · exact .derive
      · exact .decrypt
      · rw [encodeWord_encryptClass]
        exact .encrypt fmt
    | true =>
      cases i with
      | illegal op fmt rsvd => exact .illegal hwf
      | _ => cases hi

/-- `decodeWord` and `encodeWord` invert each other between the words and the well-formed instructions. -/
theorem decodeWord_eq_iff {w : Word} {i : Instr} : decodeWord w = i ↔ i.wf = true ∧ encodeWord i = w :=
  decodeWord_eq_iff_reads.trans reads_iff

theorem decodeWord_encodeWord {i : Instr} (h : i.wf = true) : decodeWord (encodeWord i) = i :=
  decodeWord_eq_iff.mpr ⟨h, rfl⟩

theorem wf_of_legal {i : Instr} (h : i.isIllegal = false) : i.wf = true := by
  cases i with
  | illegal => cases h
  | _ => rfl

/-! ### Words as bytes -/

/-- Four lanes in the order of the bus are read as the word they carry (R65). -/
theorem decode_wordLanes (w : Word) (rest : Bytes) :
    decode (wordLane w 0 :: wordLane w 1 :: wordLane w 2 :: wordLane w 3 :: rest) = .ok (decodeWord w, rest) :=
  congrArg (fun v => Except.ok (decodeWord v, rest)) (wordOfLanes_wordLane w)

/-- A row of the opcode table with the 32 bits of a word is read as that word (R90). -/
theorem decodeTableWord_toNat (w : Word) : decodeTableWord 32 w.toNat = some (decodeWord w) := by
  have hw : tableWord 32 w.toNat = w := by
    rw [tableWord, Nat.mod_eq_of_lt w.isLt, BitVec.ofNat_toNat, BitVec.setWidth_eq]
  have hd := decode_wordLanes w []
  simp only [wordLane] at hd
  simp only [decodeTableWord, hw]
  rw [if_pos (by decide), hd]

/-! ### The obligations -/

/-- Settles O1: the four bytes are the lanes of the instruction's word, which decodes to it. -/
theorem decodeEncodeRoundTrip : Obligations.DecodeEncodeRoundTrip := by
  intro i rest h
  have hd := decode_wordLanes (encodeWord i) rest
  rwa [decodeWord_encodeWord h] at hd

/-- Settles O2: what a word decodes to is well formed and has the word as its encoding. -/
theorem encodeDecodeRoundTrip : Obligations.EncodeDecodeRoundTrip := fun _ => decodeWord_eq_iff.mp rfl

/-- Settles O3: a legal class is read from its encoding alone, and the encodings are those of the table. -/
theorem legalWordsAreExactlyTheTable : Obligations.LegalWordsAreExactlyTheTable := by
  intro w i h
  rw [decodeWord_eq_iff, and_iff_right (wf_of_legal h), eq_comm]
  cases i with
  | illegal => cases h
  | _ => simp [encodeWord, cmdWord]

/-- Settles O4: each row is the word of its instruction. -/
theorem decodedSampleWords : Obligations.DecodedSampleWords := by
  have sample {i : Instr} (h : i.wf = true) : decodeTableWord 32 (encodeWord i).toNat = some i := by
    rw [decodeTableWord_toNat, decodeWord_encodeWord h]
  exact ⟨sample (i := .derive) rfl, sample (i := .decrypt) rfl, sample (i := .encryptLegacy) rfl,
    sample (i := .encryptFramed) rfl, sample (i := .encryptUnsupportedFmt2) rfl, sample (i := .illegal 3 0 1) rfl⟩

end Sys2Proof.Proofs
end

section
/-! PROOFS. The laws of the cipher, of its modes and of the padding unit (40_datapath_units.md R110, R116, R120). -/

namespace Sys2Proof.Proofs

open Sys2Proof.Machine

/-! ### The cipher -/

/-- There are finitely many blocks of 16 bytes. -/
theorem finite_blocks : {b : Bytes | b.length = 16}.Finite := List.finite_length_eq Byte 16

/-- The cipher maps blocks to blocks (R110). -/
theorem aesE_mapsTo {k : Bytes} (hk : k.length = 16) :
    Set.MapsTo (aesE k) {b | b.length = 16} {b | b.length = 16} :=
  fun b _ => aesE_length hk b

/-- Two blocks with one ciphertext are equal: each is its decryption (R110). -/
theorem aesE_injOn {k : Bytes} (hk : k.length = 16) : Set.InjOn (aesE k) {b | b.length = 16} :=
  Set.LeftInvOn.injOn fun _ hb => aesD_aesE hk hb

/-- Settles O47: decryption undoes encryption, so the cipher is injective on blocks, and a map of the finitely many blocks to
themselves that is injective is a bijection. -/
theorem cipherIsABijectionOnBlocks : Obligations.CipherIsABijectionOnBlocks := fun _ hk =>
  ⟨(finite_blocks.injOn_iff_bijOn_of_mapsTo (aesE_mapsTo hk)).mp (aesE_injOn hk),
    fun b hb => ⟨aesD_aesE hk hb, aesD_length hk b⟩⟩

/-! ### The modes -/

/-- The slice of `n` bytes from `i` on. -/
theorem slice_add (B : Bytes) (i n : Nat) : slice B i (i + n) = (B.drop i).take n := by
  rw [slice, List.drop_take, Nat.add_sub_cancel_left]

/-- Block `i` of ECB_E is the cipher of block `i` (R112). -/
theorem ecbE_slice_block {k M : Bytes} (hk : k.length = 16) {i : Nat} (hi : i < M.length / 16) :
    slice (ecbE k M) (16 * i) (16 * i + 16) = aesE k (slice M (16 * i) (16 * i + 16)) := by
  rw [slice_add, slice_add, ecbE_block hk hi]

/-- Settles O48: each law is one of the modes' own lemmas, for a message of whole blocks. -/
theorem cipherModeLaws : Obligations.CipherModeLaws := by
  intro k iv M hk hiv hM
  have hwhole : 16 * (M.length / 16) = M.length := by omega
  refine ⟨⟨?_, ?_, ?_, ?_⟩, ecbD_ecbE hk hM, cbcD_cbcE hk hiv hM, fun i j hi hj hij => ?_, ?_,
    ecbE_nil k, ecbD_nil k, cbcE_nil k iv, cbcD_nil k iv⟩
  · rw [ecbE_length hk, hwhole]
  · rw [ecbD_length hk, hwhole]
  · rw [cbcE_length hk, hwhole]
  · rw [cbcD_length hk hiv, hwhole]
  · rw [ecbE_slice_block hk hi, ecbE_slice_block hk hj, hij]
  · rintro rfl
    rw [slice_zero, slice_zero, cbcE_zeroIv_firstBlock hk]

/-! ### Padding -/

/-- The pad count is 1 to 16 (R120). -/
theorem padCount_bounds (n : Nat) : 1 ≤ padCount n ∧ padCount n ≤ 16 := by
  rw [padCount]
  omega

/-- A whole number of blocks is padded by a whole block (R120). -/
theorem pad_of_whole_blocks {M : Bytes} (h : M.length % 16 = 0) : pad M = M ++ rep 0x10 16 := by
  have hcount : padCount M.length = 16 := by rw [padCount, h]
  rw [pad, hcount]
  rfl

/-- Settles O49: the count's bounds, the padded length, and the padding undone. -/
theorem paddingLaws : Obligations.PaddingLaws := by
  intro M
  have hlen := pad_length M
  exact ⟨padCount_bounds M.length, hlen, by omega, pad_of_whole_blocks, pad_getLast? M, unpad_pad M,
    pad_of_whole_blocks (M := []) rfl⟩

end Sys2Proof.Proofs
end

section
/-! PROOFS. The marker search: which index it finds (40_datapath_units.md R122). -/

namespace Sys2Proof.Proofs

open Sys2Proof.Machine

/-- The marker stands in `D` at index `i` (R122). -/
def MarkerAt (D : Bytes) (i : Nat) : Prop := (D.drop i).take 13 = marker

theorem isPrefixOf_iff_markerAt_zero (D : Bytes) : marker.isPrefixOf D = true ↔ MarkerAt D 0 := by
  rw [List.isPrefixOf_iff_prefix, List.prefix_iff_eq_take, eq_comm]
  exact Iff.rfl

theorem markerAt_cons_succ (b : Byte) (D : Bytes) (i : Nat) : MarkerAt (b :: D) (i + 1) ↔ MarkerAt D i := Iff.rfl

/-- Where the marker stands, 13 bytes are left. -/
theorem markerAt_length {D : Bytes} {i : Nat} (h : MarkerAt D i) : i + 13 ≤ D.length := by
  have hlen := congrArg List.length h
  rw [List.length_take, List.length_drop, marker_length] at hlen
  omega

theorem not_markerAt_nil (i : Nat) : ¬MarkerAt [] i := fun h => absurd (markerAt_length h) (by simp)

/-- The search stops at a marker at the front. -/
theorem findMarker_of_markerAt_zero {b : Byte} {D : Bytes} (h : MarkerAt (b :: D) 0) : findMarker (b :: D) = some 0 := by
  rw [findMarker, if_pos ((isPrefixOf_iff_markerAt_zero _).mpr h)]

/-- Without a marker at the front the search goes on after the first byte. -/
theorem findMarker_of_not_markerAt_zero {b : Byte} {D : Bytes} (h : ¬MarkerAt (b :: D) 0) :
    findMarker (b :: D) = (findMarker D).map (· + 1) := by
  rw [findMarker, if_neg fun hp => h ((isPrefixOf_iff_markerAt_zero _).mp hp)]

/-- The search finds exactly the least index of the marker (R122). -/
theorem findMarker_eq_some_iff {D : Bytes} {i : Nat} :
    findMarker D = some i ↔ MarkerAt D i ∧ ∀ j, j < i → ¬MarkerAt D j := by
  induction D generalizing i with
  | nil => exact ⟨nofun, fun h => absurd h.1 (not_markerAt_nil i)⟩
  | cons b D ih =>
    by_cases h0 : MarkerAt (b :: D) 0
    · rw [findMarker_of_markerAt_zero h0, Option.some.injEq]
      constructor
      · rintro rfl
        exact ⟨h0, fun j hj => absurd hj (Nat.not_lt_zero j)⟩
      · rintro ⟨-, hleast⟩
        exact (Nat.eq_zero_of_not_pos fun hi => hleast 0 hi h0).symm
    · rw [findMarker_of_not_markerAt_zero h0]
      cases i with
      | zero => simp [h0]
      | succ i =>
        have hmap : (findMarker D).map (· + 1) = some (i + 1) ↔ findMarker D = some i := by simp
        have hfront : (∀ j, j < i + 1 → ¬MarkerAt (b :: D) j) ↔ ∀ j, j < i → ¬MarkerAt D j := by
          rw [Nat.forall_lt_succ_left, and_iff_right h0]
          exact Iff.rfl
        rw [hmap, ih, hfront, markerAt_cons_succ]

/-- The search finds nothing exactly where the marker stands nowhere (R122). -/
theorem findMarker_eq_none_iff {D : Bytes} : findMarker D = none ↔ ∀ i, ¬MarkerAt D i := by
  induction D with
  | nil => exact iff_of_true rfl not_markerAt_nil
  | cons b D ih =>
    by_cases h0 : MarkerAt (b :: D) 0
    · rw [findMarker_of_markerAt_zero h0]
      exact iff_of_false nofun fun h => h 0 h0
    · rw [findMarker_of_not_markerAt_zero h0, Option.map_eq_none_iff, ih,
        ← Nat.and_forall_add_one (p := fun i => ¬MarkerAt (b :: D) i), and_iff_right h0]
      exact Iff.rfl

/-- Settles O50: the search as the least index, or none; a string of fewer than 13 bytes has no room for the marker. -/
theorem markerSearchFindsTheFirst : Obligations.MarkerSearchFindsTheFirst := by
  refine ⟨rfl, fun D => ⟨fun i => ?_, findMarker_eq_none_iff, fun hshort => ?_⟩⟩
  · rw [findMarker_eq_some_iff]
    exact ⟨fun ⟨h, hleast⟩ => ⟨⟨markerAt_length h, h⟩, hleast⟩, fun ⟨⟨_, h⟩, hleast⟩ => ⟨h, hleast⟩⟩
  · refine findMarker_eq_none_iff.mpr fun i h => ?_
    have hroom := markerAt_length h
    omega

end Sys2Proof.Proofs
end

section
/-! PROOFS. A frame by its parts (40_datapath_units.md R126, R127). -/

namespace Sys2Proof.Proofs

open Sys2Proof.Machine

/-- The slice that is the middle one of three parts. -/
theorem slice_eq_of_parts {D A B C : Bytes} {i j : Nat} (hD : D = A ++ (B ++ C)) (hi : A.length = i)
    (hj : i + B.length = j) : slice D i j = B := by
  rw [hD, ← hj, ← hi, slice_append, List.take_left]

variable {iv body : Bytes}

/-- A frame has a byte, two length fields, the IV and the body (R126). -/
theorem frame_length (iv body : Bytes) : (frame iv body).length = 9 + iv.length + body.length := by
  simp only [frame, List.length_cons, List.length_append, be32_length]
  omega

/-- IVLEN of a frame is the length of its IV (R127). -/
theorem frameIvLen_frame (hiv : iv.length < 2 ^ 32) : frameIvLen (frame iv body) = iv.length := by
  have hslice : slice (frame iv body) 1 5 = be32 iv.length := slice_eq_of_parts (A := [0x01]) rfl rfl rfl
  rw [frameIvLen, hslice, beNat_be32 hiv]

/-- DLEN of a frame is the length of its body (R127). -/
theorem frameDataLen_frame (hbody : body.length < 2 ^ 32) : frameDataLen (frame iv body) = body.length := by
  have hslice : slice (frame iv body) 5 9 = be32 body.length :=
    slice_eq_of_parts (A := 0x01 :: be32 iv.length) rfl rfl rfl
  rw [frameDataLen, hslice, beNat_be32 hbody]

/-- The bytes after the header of 9 bytes are the IV (R126). -/
theorem slice_frame_iv (hiv : iv.length = 16) : slice (frame iv body) 9 25 = iv :=
  slice_eq_of_parts (A := 0x01 :: (be32 iv.length ++ be32 body.length)) rfl rfl (by rw [hiv])

/-- The bytes after the IV are the body (R126). -/
theorem slice_frame_body (hiv : iv.length = 16) : slice (frame iv body) 25 (25 + body.length) = body := by
  refine slice_eq_of_parts (A := 0x01 :: (be32 iv.length ++ be32 body.length ++ iv)) (C := []) ?_ ?_ rfl
  · rw [List.append_nil]
    rfl
  · simp only [List.length_cons, List.length_append, be32_length, hiv]

/-- A built frame passes the four checks in their order and gives back its IV and its body (R181). -/
theorem parseFrame_frame (hiv : iv.length = 16) (hblocks : body.length % 16 = 0) (hbody : body.length < 2 ^ 32) :
    parseFrame (frame iv body) = some (iv, body) := by
  have hlen := frame_length iv body
  rw [parseFrame, frameIvLen_frame (hiv ▸ by decide), frameDataLen_frame hbody, if_neg (by omega), if_neg (by omega),
    if_neg (not_not_intro hiv), if_neg (not_not_intro hblocks), slice_frame_iv hiv, slice_frame_body hiv]

/-- Settles O52: the length by parts, the first byte, and the parse. -/
theorem builtFrameParsesBack : Obligations.BuiltFrameParsesBack := by
  intro iv body hiv hblocks hbody
  refine ⟨?_, rfl, parseFrame_frame hiv hblocks hbody⟩
  rw [frame_length, hiv]

end Sys2Proof.Proofs
end

section
/-! PROOFS. The UTF-8 validator as the table of R124 reads: the rows one after another, and the bytes of a row one after
another (40_datapath_units.md R124). -/

namespace Sys2Proof.Proofs

open Sys2Proof.Machine

variable {B : Bytes}

theorem inByteRange_iff {r : ByteRange} {b : Byte} :
    inByteRange r b = true ↔ r.1.toNat ≤ b.toNat ∧ b.toNat ≤ r.2.toNat := by
  rw [inByteRange, Bool.and_eq_true, decide_eq_true_iff, decide_eq_true_iff]

/-! ### Byte 1 decides the row -/

/-- The ranges of byte 1 rise from row to row, so no byte lies in two of them (R124). -/
theorem utf8Rows_sorted : utf8Rows.Pairwise fun row row' => row.1.2.toNat < row'.1.1.toNat := by decide

/-- The search of the table finds the row whose range holds byte 1: the ranges before it lie below. -/
theorem utf8Follow_of_mem {row : ByteRange × List ByteRange} {b : Byte} (hmem : row ∈ utf8Rows)
    (hb : inByteRange row.1 b = true) : utf8Follow b = some row.2 := by
  obtain ⟨before, after, hrows⟩ := List.append_of_mem hmem
  obtain ⟨-, -, hbefore⟩ := List.pairwise_append.mp (hrows ▸ utf8Rows_sorted)
  have hfind : utf8Rows.find? (fun r => inByteRange r.1 b) = some row := by
    refine List.find?_eq_some_iff_append.mpr ⟨hb, before, after, hrows, fun r hr => ?_⟩
    have hbelow := hbefore r hr row List.mem_cons_self
    have hlo := (inByteRange_iff.mp hb).1
    rw [Bool.not_eq_true', Bool.eq_false_iff, Ne, inByteRange_iff]
    omega
  rw [utf8Follow, hfind]
  rfl

/-- The ranges that may follow a byte are those of the row whose range holds it (R124). -/
theorem utf8Follow_eq_some_iff {b : Byte} {rs : List ByteRange} :
    utf8Follow b = some rs ↔ ∃ row ∈ utf8Rows, inByteRange row.1 b = true ∧ row.2 = rs := by
  constructor
  · intro h
    obtain ⟨row, hfind, rfl⟩ := Option.map_eq_some_iff.mp h
    have hb : inByteRange row.1 b = true :=
      List.find?_some (p := fun row : ByteRange × List ByteRange => inByteRange row.1 b) hfind
    exact ⟨row, List.mem_of_find?_eq_some hfind, hb, rfl⟩
  · rintro ⟨row, hmem, hb, rfl⟩
    exact utf8Follow_of_mem hmem hb

/-! ### The bytes of a row -/

/-- Bytes still to come: the first of them lies in its range, and the rest goes on. -/
theorem utf8From_cons_iff {r : ByteRange} {rs : List ByteRange} :
    utf8From (r :: rs) B = true ↔ ∃ b R, B = b :: R ∧ inByteRange r b = true ∧ utf8From rs R = true := by
  cases B with
  | nil => simp [utf8From]
  | cons b B => simp [utf8From]

/-- With a byte to read and none to come, some row starts here. -/
theorem utf8OK_cons_iff {b : Byte} :
    utf8OK (b :: B) = true ↔ ∃ row ∈ utf8Rows, inByteRange row.1 b = true ∧ utf8From row.2 B = true := by
  have hsplit : utf8OK (b :: B) = true ↔ ∃ rs, utf8Follow b = some rs ∧ utf8From rs B = true := by
    rw [utf8OK, utf8From]
    cases utf8Follow b <;> simp
  rw [hsplit]
  constructor
  · rintro ⟨rs, hfollow, hB⟩
    obtain ⟨row, hmem, hb, rfl⟩ := utf8Follow_eq_some_iff.mp hfollow
    exact ⟨row, hmem, hb, hB⟩
  · rintro ⟨row, hmem, hb, hB⟩
    exact ⟨row.2, utf8Follow_of_mem hmem hb, hB⟩

/-- A string is UTF-8 when it is empty or starts with the bytes of a row, UTF-8 following (R124). -/
theorem utf8OK_iff_row :
    utf8OK B = true ↔ B = [] ∨ ∃ row ∈ utf8Rows, utf8From (row.1 :: row.2) B = true := by
  cases B with
  | nil => simp [utf8OK, utf8From]
  | cons b B =>
    rw [utf8OK_cons_iff]
    simp [utf8From_cons_iff]


/-- The string starts with the bytes still to come, each in its range, and goes on as UTF-8 (R124). -/
theorem utf8From_iff {rs : List ByteRange} :
    utf8From rs B = true ↔
      ∃ A, List.Forall₂ (fun r b => inByteRange r b = true) rs A ∧ ∃ R, B = A ++ R ∧ utf8OK R = true := by
  induction rs generalizing B with
  | nil => simp [utf8OK]
  | cons r rs ih =>
    rw [utf8From_cons_iff]
    simp only [ih, List.forall₂_cons_left_iff]
    constructor
    · rintro ⟨b, _, rfl, hb, A, hA, R, rfl, hR⟩
      exact ⟨b :: A, ⟨b, A, hb, hA, rfl⟩, R, rfl, hR⟩
    · rintro ⟨_, ⟨b, A, hb, hA, rfl⟩, R, rfl, hR⟩
      exact ⟨b, _, rfl, hb, A, hA, R, rfl, hR⟩

/-- Settles O51: the nine rows are the disjuncts of the statement, once those for three and for four bytes are taken apart and
their conjuncts put in one order; a range of one value is an equation. -/
theorem utf8SplitsByTheTable : Obligations.Utf8SplitsByTheTable := by
  intro B
  have hzero (n : Nat) : 0 ≤ n ↔ True := iff_true_intro (Nat.zero_le n)
  rw [utf8OK_iff_row]
  -- a row's ranges become as many bytes, each with its bounds
  simp only [utf8Rows, List.mem_cons, List.not_mem_nil, or_false, exists_eq_or_imp, ↓existsAndEq, utf8From_iff,
    List.forall₂_cons_left_iff, List.forall₂_nil_left_iff, List.cons_append, List.nil_append, inByteRange_iff,
    BitVec.reduceToNat, hzero, true_and, and_true]
  simp only [Nat.le_antisymm_iff, or_and_right, and_or_left, exists_or, or_assoc, ← exists_and_left]
  simp only [and_assoc, and_comm, and_left_comm]

end Sys2Proof.Proofs
end

section
/-! PROOFS. The TRNG handshake (40_datapath_units.md R129, R130): which checks stand before a request for a draw, and what the
engine does once they are passed. -/

namespace Sys2Proof.Proofs

open Sys2Proof.Machine

/-- The checks a plaintext passes (R158). -/
theorem plaintextVerdict_ok_iff {fmt : Format} {size n : Nat} {M N : Bytes} :
    plaintextVerdict fmt size n M = .ok N ↔ n ≤ size ∧ utf8OK M = true ∧ outLenOf fmt n ≤ size ∧ M = N := by
  rcases plaintextVerdict_cases fmt size n M with ⟨hc, hv⟩ | ⟨-, hc, hv⟩ | ⟨-, -, hc, hv⟩ | ⟨hn, hu, ho, hv⟩ <;> rw [hv]
  · exact iff_of_false nofun fun ⟨hn, _⟩ => absurd hn (Nat.not_le.mpr hc)
  · exact iff_of_false nofun fun ⟨_, hu, _⟩ => absurd (hc.symm.trans hu) (by decide)
  · exact iff_of_false nofun fun ⟨_, _, ho, _⟩ => absurd ho (Nat.not_le.mpr hc)
  · rw [Except.ok.injEq, and_iff_right hn, and_iff_right hu, and_iff_right ho]

/-- The output length of a Framed ENCRYPT: a header of 25 bytes and the padded plaintext (R158). -/
theorem outLenOf_framed (n : Nat) : outLenOf .framed n = 25 + 16 * (n / 16 + 1) := by
  rw [outLenOf]
  omega

/-- Once its checks are passed, an ENCRYPT runs its codec on the plaintext (R158). -/
theorem encryptWith_of_checks {fmt : Format} {encode : Bytes → Out} {s : State} (hk : s.kstate = .keyed)
    (hu : utf8OK (s.memReadIn 0 s.len0) = true) (hn : s.len0 ≤ s.bufBytes) (ho : outLenOf fmt s.len0 ≤ s.bufBytes) :
    encryptWith fmt encode s = encode (s.memReadIn 0 s.len0) := by
  rw [encryptWith, if_neg (not_not_intro hk), plaintextVerdict_ok_iff.mpr ⟨hn, hu, ho, rfl⟩]

/-- Once its checks are passed, ENCRYPT.FRAMED is FRAMED_ENCODE; an output that fits has a plaintext that fits (R158, R185). -/
theorem exec_encryptFramed_of_checks {s : State} (hk : s.kstate = .keyed) (hu : utf8OK (s.memReadIn 0 s.len0) = true)
    (ho : 25 + 16 * (s.len0 / 16 + 1) ≤ s.bufBytes) :
    exec .encryptFramed s = framedEncode s (s.memReadIn 0 s.len0) :=
  encryptWith_of_checks hk hu (by omega) (outLenOf_framed s.len0 ▸ ho)

/-- Settles O39: past the checks, the arm of FRAMED_ENCODE is known by trng_req and trng_valid. -/
theorem encryptFramedRequestsAndWaits : Obligations.EncryptFramedRequestsAndWaits := by
  intro s hk hu ho
  rw [exec_encryptFramed_of_checks hk hu ho]
  rcases framedEncode_cases s (s.memReadIn 0 s.len0) with ⟨hreq, he⟩ | ⟨hreq, hvalid, he⟩ | ⟨hreq, hvalid, -⟩
  · exact ⟨fun _ => he, fun h => absurd (hreq.symm.trans h) (by decide)⟩
  · exact ⟨fun h => absurd (hreq.symm.trans h) (by decide), fun _ _ => he⟩
  · exact ⟨fun h => absurd (hreq.symm.trans h) (by decide), fun _ h => absurd (hvalid.symm.trans h) (by decide)⟩

/-- Only ENCRYPT.FRAMED raises trng_req (R129). -/
theorem classEffect_request {i : Instr} {s t : State} (h : ClassEffect s i t) (hs : s.trngReq = false)
    (ht : t.trngReq = true) : i = .encryptFramed := by
  cases h with
  | requested | waited => rfl
  | illegal => exact absurd (hs.symm.trans ht) (by decide)
  | _ => cases ht

/-- An ENCRYPT.FRAMED that leaves trng_req high has passed its checks: each error lowers it (R129, R260). -/
theorem checks_of_encryptFramed_request {s t : State} (h : exec .encryptFramed s = .next t) (ht : t.trngReq = true) :
    s.kstate = .keyed ∧ s.len0 ≤ s.bufBytes ∧ utf8OK (s.memReadIn 0 s.len0) = true ∧
      outLenOf .framed s.len0 ≤ s.bufBytes := by
  replace h : encryptWith .framed (framedEncode s) s = .next t := h
  rcases encryptWith_cases .framed (framedEncode s) s with ⟨-, he⟩ | ⟨-, e, -, he⟩ | ⟨hk, hv, -⟩
  · rw [he] at h
    cases h
    cases ht
  · rw [he] at h
    cases h
    cases ht
  · obtain ⟨hn, hu, ho, -⟩ := plaintextVerdict_ok_iff.mp hv
    exact ⟨hk, hn, hu, ho⟩

/-- Settles O40: the class is ENCRYPT.FRAMED, and its errors would have left trng_req low. -/
theorem onlyCheckedFramedEncryptAsksForADraw : Obligations.OnlyCheckedFramedEncryptAsksForADraw := by
  intro s t i h hs ht
  obtain rfl := classEffect_request (exec_classEffect h) hs ht
  obtain ⟨hk, hn, hu, ho⟩ := checks_of_encryptFramed_request h ht
  exact ⟨rfl, hk, hn, hu, outLenOf_framed s.len0 ▸ ho⟩

end Sys2Proof.Proofs
end

section
/-! PROOFS. Safety of a step (40_datapath_units.md R111, 70_reset_and_hazards.md R270): each move of a sound state is
answered. -/

namespace Sys2Proof.Proofs

open Sys2Proof.Machine

variable {s : State}

/-- The engine does nothing while IDLE (R264). -/
theorem engineTurn_idle (hq : s.seq = .idle) : engineTurn s = .next s := by
  cases hr : s.rstN with
  | false => exact engineTurn_in_reset hr
  | true => rw [engineTurn, if_neg (not_not_intro hr), hq]

/-- A turn of the engine is answered, since SEQ is BUSY with a legal class only; it does not drive the reset line. -/
theorem exists_engineTurn (hs : s.Inv) : ∃ t, engineTurn s = .next t ∧ t.rstN = s.rstN := by
  obtain ⟨-, -, -, hseq, -⟩ := hs
  cases hr : s.rstN with
  | false => exact ⟨s, engineTurn_in_reset hr, hr⟩
  | true =>
    cases hq : s.seq with
    | idle => exact ⟨s, engineTurn_idle hq, hr⟩
    | busy c =>
      obtain ⟨hc, -⟩ := (sequencerOk_busy hq).mp hseq
      obtain ⟨t, ht⟩ := exec_next c s
      obtain ⟨-, -, -, -, -, -, -, hrst, -⟩ := exec_frame ht
      exact ⟨t, (engineTurn_busy hr hq hc).trans ht, hrst.trans hr⟩

/-- A bus transaction outside reset is answered (R61). -/
theorem busTransaction_safe (b : Bool) (x : BusTx) (hr : s.rstN = true) : Safe (busTransaction b x s) := by
  obtain ⟨t, ht, -⟩ := busTransaction_effect b x hr
  exact ⟨t, ht⟩

/-- A turn of the engine with a transaction in its cycle is answered outside reset (R253). -/
theorem engineAndBus_safe (x : BusTx) (hs : s.Inv) (hr : s.rstN = true) : Safe (engineAndBus x s) := by
  obtain ⟨t, ht, hrst⟩ := exists_engineTurn hs
  rw [engineAndBus, ht]
  exact busTransaction_safe _ x (hrst.trans hr)

/-- Every move is answered that is no transaction in reset (R270). -/
theorem performInput_safe (i : Input) (hs : s.Inv) (hbus : s.rstN = false → ∀ x, i ≠ .bus x ∧ i ≠ .engineAnd x) :
    Safe (performInput i s) := by
  cases i with
  | bus x => exact busTransaction_safe false x (Bool.of_not_eq_false fun hr => (hbus hr x).1 rfl)
  | engine =>
    obtain ⟨t, ht, -⟩ := exists_engineTurn hs
    exact ⟨t, ht⟩
  | engineAnd x => exact engineAndBus_safe x hs (Bool.of_not_eq_false fun hr => (hbus hr x).2 rfl)
  | trng v d => exact ⟨_, rfl⟩
  | rst level => exact ⟨_, rfl⟩

/-- Settles O60: the step is a turn of the engine or the move at the head of the list, and the fabric keeps transactions out
of reset. -/
theorem soundStatesStepSafely : Obligations.SoundStatesStepSafely := by
  intro s hs hfabric
  cases hin : s.inputs with
  | nil =>
    obtain ⟨t, ht, -⟩ := exists_engineTurn hs
    exact ⟨t, (step_nil hin).trans ht⟩
  | cons i rest =>
    rw [step_cons hin]
    refine performInput_safe i ((inv_withInputs rest s).mpr hs) fun hr x => ?_
    obtain ⟨hbus, hand⟩ := hfabric hr x rest
    exact ⟨fun hi => hbus (hi ▸ hin), fun hi => hand (hi ▸ hin)⟩

end Sys2Proof.Proofs
end

section
/-! PROOFS. How a command completes: `finished` and `raised` as the statements describe them (42_format_dispatch.md R152,
60_exceptions.md R240), and the frame of every command (20_memory.md R73). -/

namespace Sys2Proof.Proofs

open Sys2Proof.Machine

/-- After `finish(B)` the defined bytes of OUT_BUF are those of `B`, whose length OUT_LEN can hold (R33, R152). -/
theorem completedOk_finished {B : Bytes} (hB : B.length < 2 ^ 32) (s : State) : CompletedOk B (s.finished B) := by
  have hlen : (s.finished B).outLen.toNat = B.length := by
    rw [State.finished_outLen, BitVec.toNat_ofNat, Nat.mod_eq_of_lt hB]
  refine ⟨rfl, rfl, rfl, hlen, fun i => ?_, rfl⟩
  by_cases hi : i < B.length
  · rw [State.outByte, if_pos ⟨rfl, hlen.symm ▸ hi⟩, State.finished_outBuf, Memory.read_writeBytes_zero _ _ hi]
  · rw [State.outByte_beyond _ (hlen.trans_le (Nat.not_lt.mp hi)), List.getElem?_eq_none (Nat.not_lt.mp hi)]

/-- After `raise e` no byte of OUT_BUF is defined (R33, R240). -/
theorem completedErr_raised (e : ErrCode) (s : State) : CompletedErr e (s.raised e) :=
  ⟨rfl, rfl, rfl, rfl, outByte_of_outLen_zero rfl, rfl⟩

/-- Every command keeps the frame (R73, R33 to R35). -/
theorem exec_commandFrame {i : Instr} {s t : State} (h : exec i s = .next t) : CommandFrame s t := by
  obtain ⟨hn, hin, hrest⟩ := exec_frame h
  exact ⟨hn, fun _ => congrArg (Memory.read · _) hin, hrest⟩

end Sys2Proof.Proofs
end

section
/-! PROOFS. DERIVE (41_key_derivation.md R140 to R148): its outcome is a verdict on the operands, the key or a code, and the
next state is that verdict entered in the state. -/

namespace Sys2Proof.Proofs

open Sys2Proof.Machine

/-- The Hudson secret key decrypted under the temporary key of the master key (R140). -/
def decryptedHsk (s : State) : Bytes :=
  ecbD ((sha256 (s.memReadIn 0 s.len0)).take 16) (s.memReadIn s.len0 s.len1)

/-- MARKER stands at index 16 of a decrypted key (R121). -/
abbrev HoldsMarker (D : Bytes) : Prop := 29 ≤ D.length ∧ (D.drop 16).take 13 = marker

/-- DERIVE's checks in the order of R142: the code of the first that fails, or the derived key (R143). -/
def deriveVerdict (s : State) : Except ErrCode Block :=
  if s.bufBytes < s.len0 + s.len1 then .error .length
  else if s.len1 < 32 ∨ s.len1 % 16 ≠ 0 ∨ ¬HoldsMarker (decryptedHsk s) then .error .kdf
  else .ok (blockOfBytes ((decryptedHsk s).take 16))

theorem deriveVerdict_length {s : State} (hsum : s.bufBytes < s.len0 + s.len1) : deriveVerdict s = .error .length := by
  rw [deriveVerdict, if_pos hsum]

theorem deriveVerdict_kdf {s : State} (hsum : s.len0 + s.len1 ≤ s.bufBytes)
    (hcheck : s.len1 < 32 ∨ s.len1 % 16 ≠ 0 ∨ ¬HoldsMarker (decryptedHsk s)) : deriveVerdict s = .error .kdf := by
  rw [deriveVerdict, if_neg (Nat.not_lt.mpr hsum), if_pos hcheck]

theorem deriveVerdict_ok {s : State} (hsum : s.len0 + s.len1 ≤ s.bufBytes) (h32 : 32 ≤ s.len1) (h16 : s.len1 % 16 = 0)
    (hm : HoldsMarker (decryptedHsk s)) : deriveVerdict s = .ok (blockOfBytes ((decryptedHsk s).take 16)) := by
  have hpass : ¬(s.len1 < 32 ∨ s.len1 % 16 ≠ 0 ∨ ¬HoldsMarker (decryptedHsk s)) := fun h =>
    h.elim (Nat.not_lt.mpr h32) fun h => h.elim (absurd h16) (absurd hm)
  rw [deriveVerdict, if_neg (Nat.not_lt.mpr hsum), if_neg hpass]

/-- The state after a derivation with a given verdict (R143, R144). -/
def derivedState (s : State) : Except ErrCode Block → State
  | .ok k => (s.withTempKey 0).keyLoaded k
  | .error e => s.derivationFailed e

/-- The temporary key passes through the register TEMP_KEY unchanged (R24, R118). -/
theorem blockBytes_tempKey (mk : Bytes) : blockBytes (blockOfBytes (tempKeyOf mk)) = (sha256 mk).take 16 := by
  rw [blockBytes_blockOfBytes (tempKeyOf_length mk), tempKeyOf_eq_take]

/-- DERIVE enters its verdict in the state. -/
theorem exec_derive_eq (s : State) : exec .derive s = .next (derivedState s (deriveVerdict s)) := by
  show execDerive s = _
  rcases execDerive_cases s with ⟨hsum, he⟩ | ⟨hsum, hlen, he⟩ | ⟨hsum, h32, h16, he⟩ <;> rw [he]
  · rw [deriveVerdict_length hsum]
    rfl
  · rw [deriveVerdict_kdf hsum (by omega)]
    rfl
  · have hcases := deriveFrom_cases (s.memReadIn 0 s.len0) (s.memReadIn s.len0 s.len1) s
    rw [blockBytes_tempKey, slice_zero, ← decryptedHsk] at hcases
    rcases hcases with ⟨hm, hd⟩ | ⟨hm, hd⟩ <;> rw [hd]
    · rw [deriveVerdict_ok hsum h32 h16 ((markerAt16_iff _).mp hm)]
      rfl
    · have hno : ¬HoldsMarker (decryptedHsk s) := fun h => Bool.eq_false_iff.mp hm ((markerAt16_iff _).mpr h)
      rw [deriveVerdict_kdf hsum (.inr (.inr hno))]
      rfl

/-- The verdict reads BUF_BYTES, the two lengths and the operand bytes of IN_BUF, and nothing else (R147). -/
theorem deriveVerdict_congr {s s' : State} (hn : s'.bufBytes = s.bufBytes) (h0 : s'.len0 = s.len0) (h1 : s'.len1 = s.len1)
    (hin : ∀ i, i < s.len0 + s.len1 → s'.inByte i = s.inByte i) : deriveVerdict s' = deriveVerdict s := by
  have hread (a n : Nat) (h : a + n ≤ s.len0 + s.len1) : s'.memReadIn a n = s.memReadIn a n :=
    List.map_congr_left fun i hi => hin (a + i) (by have := List.mem_range.mp hi; omega)
  have hD : decryptedHsk s' = decryptedHsk s := by
    rw [decryptedHsk, decryptedHsk, h0, h1, hread _ _ (by omega), hread _ _ le_rfl]
  rw [deriveVerdict, deriveVerdict, hn, h0, h1, hD]

/-- What a verdict determines of the next state, whatever the state before. -/
theorem derivedState_result (s s' : State) (r : Except ErrCode Block) :
    (derivedState s' r).kstate = (derivedState s r).kstate ∧ (derivedState s' r).cipherKey = (derivedState s r).cipherKey ∧
    (derivedState s' r).tempKey = (derivedState s r).tempKey ∧ (derivedState s' r).err = (derivedState s r).err ∧
    (derivedState s' r).outLen = (derivedState s r).outLen ∧ (derivedState s' r).done = (derivedState s r).done ∧
    (derivedState s' r).seq = (derivedState s r).seq := by
  cases r <;> exact ⟨rfl, rfl, rfl, rfl, rfl, rfl, rfl⟩

/-- Settles O25: every check passes, so the verdict is the key. -/
theorem deriveLoadsTheKey : Obligations.DeriveLoadsTheKey := by
  intro s D hsum h32 h16 hD h29 hm
  obtain rfl : D = decryptedHsk s := hD
  have he := exec_derive_eq s
  rw [deriveVerdict_ok hsum h32 h16 ⟨h29, hm⟩] at he
  have hkey : ((decryptedHsk s).take 16).length = 16 := List.length_take_of_le (by omega)
  exact ⟨_, he, rfl, blockBytes_blockOfBytes hkey, rfl, completedOk_finished (B := []) (by decide) _, rfl, rfl,
    exec_commandFrame he⟩

/-- Settles O26: the verdict is the code of the first check that fails. -/
theorem deriveFailureLeavesNoKey : Obligations.DeriveFailureLeavesNoKey := by
  intro s D e hD hfail
  obtain rfl : D = decryptedHsk s := hD
  have hv : deriveVerdict s = .error e := by
    rcases hfail with ⟨rfl, hsum⟩ | ⟨rfl, hsum, hcheck⟩
    · exact deriveVerdict_length hsum
    · exact deriveVerdict_kdf hsum hcheck
  have he := exec_derive_eq s
  rw [hv] at he
  exact ⟨_, he, rfl, rfl, rfl, completedErr_raised e _, rfl, rfl, exec_commandFrame he⟩

/-- Settles O27: equal operands have one verdict, and the result is the verdict's. -/
theorem deriveDependsOnItsOperandsAlone : Obligations.DeriveDependsOnItsOperandsAlone := by
  intro s s' t t' hn h0 h1 hin ht ht'
  have hv := deriveVerdict_congr hn (congrArg BitVec.toNat h0) (congrArg BitVec.toNat h1) hin
  rw [exec_derive_eq] at ht ht'
  cases ht
  cases ht'
  rw [hv]
  exact derivedState_result s s' _

/-! ### The way back to UNKEYED (R146) -/

/-- No class ends with KSTATE UNKEYED but one that found it so: DERIVE leaves KEYED or FAILED (R143, R144). -/
theorem unkeyed_of_classEffect {i : Instr} {s t : State} (h : ClassEffect s i t) (ht : t.kstate = .unkeyed) :
    s.kstate = .unkeyed := by
  cases h with
  | derivationFailed | keyLoaded => cases ht
  | _ => exact ht

/-- A turn of the engine does not return KSTATE to UNKEYED. -/
theorem unkeyed_of_engineTurn {s t : State} (h : engineTurn s = .next t) (ht : t.kstate = .unkeyed) :
    s.kstate = .unkeyed := by
  rcases engineTurn_cases h with ⟨rfl, -⟩ | ⟨-, c, -, -, he⟩
  · exact ht
  · exact unkeyed_of_classEffect (exec_classEffect he) ht

/-- Settles O29: a step that changes KSTATE and is no reset is a turn of the engine (O28), perhaps with a transaction in its
cycle. -/
theorem onlyResetReturnsToUnkeyed : Obligations.OnlyResetReturnsToUnkeyed := by
  intro s t h ht
  by_cases hk : s.kstate = .unkeyed
  · exact .inl hk
  have hch : t.kstate ≠ s.kstate := fun heq => hk (heq.symm.trans ht)
  rcases onlyDeriveAndResetWriteTheKey s t h (.inl hch) with ⟨-, -, hin | ⟨rest, hin | ⟨x, hin⟩⟩⟩ | hrst
  · rw [step_nil hin] at h
    exact .inl (unkeyed_of_engineTurn h ht)
  · rw [step_cons hin] at h
    exact .inl (unkeyed_of_engineTurn (s := s.withInputs rest) h ht)
  · rw [step_cons hin] at h
    obtain ⟨u, hu, hx⟩ := engineAndBus_cases h
    obtain ⟨hks, -⟩ := busEffect_keyKept (busTransaction_cases hx).2
    exact .inl (unkeyed_of_engineTurn (s := s.withInputs rest) hu (hks.symm.trans ht))
  · exact .inr hrst

end Sys2Proof.Proofs
end

section
/-! PROOFS. The issue of a command: a CMD write by the word it carries, and the step of a word that is placed to run
(42_format_dispatch.md R150, R151, R154; 10_state.md R21). -/

namespace Sys2Proof.Proofs

open Sys2Proof.Machine

variable {s : State} {rest : List Input} {w : Word}

/-- While IDLE an illegal word runs at its CMD write (R154). -/
theorem issueCommand_of_illegal (hq : s.seq = .idle) (hw : (decodeWord w).isIllegal = true) :
    issueCommand w s = exec (decodeWord w) (s.answered (.write .okay)) := by
  rw [issueCommand, hq]
  exact if_pos hw

/-- While IDLE any other word is accepted (R151). -/
theorem issueCommand_of_legal (hq : s.seq = .idle) (hw : (decodeWord w).isIllegal = false) :
    issueCommand w s = .next ((s.answered (.write .okay)).accepted (decodeWord w)) := by
  rw [issueCommand, hq]
  exact if_neg (Bool.eq_false_iff.mp hw)

/-- The step of a CMD write of an illegal word while IDLE runs it, answered OKAY (R150, R154). -/
theorem step_write_cmd_illegal (hr : s.rstN = true) (hq : s.seq = .idle) (hw : (decodeWord w).isIllegal = true)
    (h : s.inputs = .bus (.write (regAddr .cmd) w) :: rest) :
    step s = exec (decodeWord w) { s with inputs := rest, busResult := .write .okay } := by
  rw [step_write_reg .cmd hr h]
  exact issueCommand_of_illegal (s := s.withInputs rest) hq hw

/-- The step of a CMD write of a legal word while IDLE accepts it (R150, R151). -/
theorem step_write_cmd_legal (hr : s.rstN = true) (hq : s.seq = .idle) (hw : (decodeWord w).isIllegal = false)
    (h : s.inputs = .bus (.write (regAddr .cmd) w) :: rest) :
    step s = .next (((s.withInputs rest).answered (.write .okay)).accepted (decodeWord w)) := by
  rw [step_write_reg .cmd hr h]
  exact issueCommand_of_legal (s := s.withInputs rest) hq hw

/-- Settles O6: by SEQ and by the class of the word. -/
theorem cmdWriteIssuesCommand : Obligations.CmdWriteIssuesCommand := by
  intro s w rest hr h
  refine ⟨fun hbusy => ?_, fun hq hw => ?_, fun hq hw => step_write_cmd_legal hr hq hw h⟩
  · obtain ⟨c, hq⟩ := isBusy_iff.mp hbusy
    exact step_write_reg_busy (r := .cmd) hr hq (.inl rfl) h
  · have hstep := step_write_cmd_illegal hr hq hw h
    exact ⟨hstep, hstep.trans (exec_of_isIllegal hw _)⟩

/-- A number of 32 bits as a word of the opcode table is that word (R90). -/
theorem tableWord_of_lt {n : Nat} (h : n < 2 ^ 32) : tableWord 32 n = BitVec.ofNat 32 n := by
  rw [tableWord, Nat.mod_eq_of_lt h]

/-- A legal word is placed as accepted, with the engine's turn next (log 1). -/
theorem withFetchWord_of_legal (s : State) {n : Nat} (hn : n < 2 ^ 32)
    (hw : (decodeWord (BitVec.ofNat 32 n)).isIllegal = false) :
    s.withFetchWord 32 n =
      { s.accepted (decodeWord (BitVec.ofNat 32 n)) with rstN := true, inputs := .engine :: s.inputs } := by
  simp only [State.withFetchWord, tableWord_of_lt hn, hw]
  rfl

/-- An illegal word is placed as the CMD write that comes next (log 1). -/
theorem withFetchWord_of_illegal (s : State) {n : Nat} (hn : n < 2 ^ 32)
    (hw : (decodeWord (BitVec.ofNat 32 n)).isIllegal = true) :
    s.withFetchWord 32 n =
      { s with seq := .idle, rstN := true,
               inputs := .bus (.write (regAddr .cmd) (BitVec.ofNat 32 n)) :: s.inputs } := by
  simp only [State.withFetchWord, tableWord_of_lt hn, hw]
  rfl

/-- Settles O7: the placed move is taken from the list, and it runs the instruction. -/
theorem fetchWordRunsTheDecodedInstruction : Obligations.FetchWordRunsTheDecodedInstruction := by
  refine fun s n hn => ⟨fun hw => ?_, fun hw => ?_⟩
  · rw [withFetchWord_of_legal s hn hw]
    exact (stepRunsTheAcceptedCommand _ _ rfl rfl hw).2 s.inputs rfl
  · rw [withFetchWord_of_illegal s hn hw]
    exact step_write_cmd_illegal rfl rfl hw rfl

/-- Settles O42: the fields of the word are not looked at. -/
theorem illegalWordCompletesAtOnce : Obligations.IllegalWordCompletesAtOnce := fun s _ _ _ => exec_of_isIllegal rfl s

end Sys2Proof.Proofs
end

section
/-! PROOFS. The checks before a codec runs: the format of a payload (42_format_dispatch.md R155), the checks of DECRYPT's
payload (R157, 44_framed_codec.md R181) and those of ENCRYPT's plaintext (42_format_dispatch.md R158). -/

namespace Sys2Proof.Proofs

open Sys2Proof.Machine

/-! ### The format -/

/-- A payload is Framed exactly when its first byte is 1 (R155). -/
theorem detect_eq_framed_iff (C : Bytes) : detect C = .framed ↔ C[0]? = some 0x01 := by
  cases C with
  | nil => exact iff_of_false nofun nofun
  | cons b C =>
    by_cases hb : b = 0x01
    · exact iff_of_true (if_pos hb) (congrArg some hb)
    · have hlegacy : detect (b :: C) = .legacy := if_neg hb
      rw [hlegacy]
      exact iff_of_false nofun fun h => hb (Option.some.inj h)

/-- There are two formats (R92). -/
theorem eq_legacy_iff_ne_framed (f : Format) : f = .legacy ↔ ¬f = .framed := by cases f <;> decide

/-- Settles O32: the format is a function of the first byte. -/
theorem firstByteAloneDecidesTheFormat : Obligations.FirstByteAloneDecidesTheFormat := by
  refine fun C C' => ⟨?_, eq_legacy_iff_ne_framed _, fun h => ?_⟩
  · rw [detect_eq_framed_iff]
    exact ⟨fun h => ⟨(List.getElem?_eq_some_iff.mp h).1, h⟩, fun h => h.2⟩
  · have hframed : detect C = .framed ↔ detect C' = .framed := by rw [detect_eq_framed_iff, detect_eq_framed_iff, h]
    cases hC' : detect C' with
    | framed => exact hframed.mpr hC'
    | legacy =>
      rw [eq_legacy_iff_ne_framed] at hC' ⊢
      exact mt hframed.mp hC'

/-! ### DECRYPT -/

/-- The four frame checks of R181, of which a payload fails one exactly when it does not parse. -/
theorem parseFrame_eq_none_iff (C : Bytes) :
    parseFrame C = none ↔
      C.length < 9 ∨ 9 + frameIvLen C + frameDataLen C ≠ C.length ∨ frameIvLen C ≠ 16 ∨ frameDataLen C % 16 ≠ 0 := by
  rw [parseFrame]
  split_ifs with hheader hsum hiv hblocks
  · exact iff_of_true rfl (.inl hheader)
  · exact iff_of_true rfl (.inr (.inl hsum))
  · exact iff_of_true rfl (.inr (.inr (.inl hiv)))
  · exact iff_of_true rfl (.inr (.inr (.inr hblocks)))
  · exact iff_of_false nofun (by simp only [hheader, hsum, hiv, hblocks, or_self, not_false_eq_true])

/-- IVLEN is the number of bytes 1 to 4 (R127). -/
theorem frameIvLen_eq (C : Bytes) : frameIvLen C = beNat ((C.drop 1).take 4) := congrArg beNat (slice_add C 1 4)

/-- DLEN is the number of bytes 5 to 8 (R127). -/
theorem frameDataLen_eq (C : Bytes) : frameDataLen C = beNat ((C.drop 5).take 4) := congrArg beNat (slice_add C 5 4)

variable {s : State}

/-- DECRYPT of a payload longer than the buffer (R157). -/
theorem exec_decrypt_oversized (hk : s.kstate = .keyed) (hn : s.bufBytes < s.len0) :
    exec .decrypt s = .next (s.raised .length) := by
  show execDecrypt s = _
  rw [execDecrypt, if_neg (not_not_intro hk), if_pos hn]
  rfl

/-- DECRYPT of a Framed payload within the buffer (R157). -/
theorem exec_decrypt_framed (hk : s.kstate = .keyed) (hn : s.len0 ≤ s.bufBytes)
    (hC : (s.memReadIn 0 s.len0)[0]? = some 0x01) :
    exec .decrypt s = framedDecode (s.memReadIn 0 s.len0) (s.withFmtUsed .framed) := by
  show execDecrypt s = _
  rw [execDecrypt, if_neg (not_not_intro hk), if_neg (Nat.not_lt.mpr hn), decryptPayload,
    (detect_eq_framed_iff _).mpr hC]

/-- FRAMED_DECODE of a payload that fails a frame check (R180). -/
theorem framedDecode_malformed {C : Bytes} (h : parseFrame C = none) :
    framedDecode C s = .next (s.raised .malformed) := by
  rw [framedDecode, h]
  rfl

/-- Settles O34: the length check, or the frame checks after the format is recorded. -/
theorem decryptRejectsBadPayload : Obligations.DecryptRejectsBadPayload := by
  rintro s C e f hk rfl (⟨rfl, rfl, hn⟩ | ⟨rfl, rfl, hn, hframed, hbad⟩)
  · have he := exec_decrypt_oversized hk hn
    exact ⟨_, he, completedErr_raised _ _, rfl, ⟨rfl, rfl, rfl⟩, rfl, exec_commandFrame he⟩
  · rw [← frameIvLen_eq, ← frameDataLen_eq, ← parseFrame_eq_none_iff] at hbad
    have he := (exec_decrypt_framed hk hn hframed).trans (framedDecode_malformed hbad)
    exact ⟨_, he, completedErr_raised _ _, rfl, ⟨rfl, rfl, rfl⟩, rfl, exec_commandFrame he⟩

/-! ### ENCRYPT -/

/-- The first check that a plaintext fails gives the code (R158). -/
theorem plaintextVerdict_eq_error {fmt : Format} {size n : Nat} {M : Bytes} {e : ErrCode}
    (h : (e = .length ∧ size < n) ∨ (e = .decoding ∧ n ≤ size ∧ utf8OK M = false) ∨
      (e = .length ∧ n ≤ size ∧ utf8OK M = true ∧ size < outLenOf fmt n)) :
    plaintextVerdict fmt size n M = .error e := by
  rw [plaintextVerdict]
  rcases h with ⟨rfl, hn⟩ | ⟨rfl, hn, hu⟩ | ⟨rfl, hn, hu, ho⟩
  · rw [if_pos hn]
  · rw [if_neg (Nat.not_lt.mpr hn), if_pos (Bool.eq_false_iff.mp hu)]
  · rw [if_neg (Nat.not_lt.mpr hn), if_neg (not_not_intro hu), if_pos ho]

/-- An ENCRYPT whose plaintext fails a check records its format and raises the code; its codec does not run (R158, R160). -/
theorem encryptWith_of_error {fmt : Format} {encode : Bytes → Out} {e : ErrCode} (hk : s.kstate = .keyed)
    (hv : plaintextVerdict fmt s.bufBytes s.len0 (s.memReadIn 0 s.len0) = .error e) :
    encryptWith fmt encode s = .next ((s.withFmtUsed fmt).raised e) := by
  rw [encryptWith, if_neg (not_not_intro hk), hv]
  rfl

/-- Settles O36: both classes are `encryptWith` on their format. -/
theorem encryptRejectsBadPlaintext : Obligations.EncryptRejectsBadPlaintext := by
  intro s i f e hk hi hbad
  have hv := plaintextVerdict_eq_error hbad
  have he : exec i s = .next ((s.withFmtUsed f).raised e) := by
    rcases hi with ⟨rfl, rfl⟩ | ⟨rfl, rfl⟩
    · exact encryptWith_of_error hk hv
    · exact encryptWith_of_error hk hv
  exact ⟨_, he, completedErr_raised e _, rfl, ⟨rfl, rfl, rfl⟩, rfl, exec_commandFrame he⟩

end Sys2Proof.Proofs
end

section
/-! PROOFS. What DECRYPT and ENCRYPT depend on (42_format_dispatch.md R161, R162): two states with the same operands are
updated alike, with one verdict. -/

namespace Sys2Proof.Proofs

open Sys2Proof.Machine

variable {i : Instr} {s s' : State}

/-- The two states give DECRYPT and ENCRYPT the same key, payload and buffer size (R162). -/
structure SameOperands (s s' : State) : Prop where
  bufBytes : s'.bufBytes = s.bufBytes
  kstate : s'.kstate = s.kstate
  cipherKey : s'.cipherKey = s.cipherKey
  inLen0 : s'.inLen0 = s.inLen0
  inByte : ∀ j, j < s.len0 → s'.inByte j = s.inByte j

/-- The lines of the TRNG handshake stand alike in the two states (R130). -/
def SameDraw (s s' : State) : Prop :=
  s'.trngReq = s.trngReq ∧ s'.trngValid = s.trngValid ∧ s'.trngData = s.trngData

theorem SameOperands.len0_eq (h : SameOperands s s') : s'.len0 = s.len0 := congrArg BitVec.toNat h.inLen0

theorem SameOperands.key_eq (h : SameOperands s s') : s'.key = s.key := congrArg blockBytes h.cipherKey

/-- Both states hold the same payload. -/
theorem SameOperands.payload_eq (h : SameOperands s s') : s'.memReadIn 0 s.len0 = s.memReadIn 0 s.len0 := by
  refine List.map_congr_left fun j hj => ?_
  rw [Nat.zero_add]
  exact h.inByte j (List.mem_range.mp hj)

/-- The outcomes of two runs of one command that make the same updates of their states; ENCRYPT.FRAMED without its draw makes
a request or waits (R130). -/
inductive SameUpdate (i : Instr) (s s' : State) : Out → Out → Prop where
  /-- An error before the format is recorded. -/
  | raise (e : ErrCode) : SameUpdate i s s' (s.raise e) (s'.raise e)
  /-- A verdict after the format is recorded (R160). -/
  | recorded (f : Format) (r : Except ErrCode Bytes) :
      SameUpdate i s s' ((s.withFmtUsed f).complete r) ((s'.withFmtUsed f).complete r)
  /-- A verdict after the format and the IV are recorded (R182, R186). -/
  | recordedIv (iv : Block) (r : Except ErrCode Bytes) :
      SameUpdate i s s' (((s.withFmtUsed .framed).withIv iv).complete r)
        (((s'.withFmtUsed .framed).withIv iv).complete r)
  /-- A request for a draw. -/
  | request (hi : i = .encryptFramed) (h : s.trngReq = false) :
      SameUpdate i s s' (.next (s.withTrngReq true)) (.next (s'.withTrngReq true))
  /-- A wait for a draw. -/
  | wait (hi : i = .encryptFramed) (h : s.trngValid = false) : SameUpdate i s s' (.next s) (.next s')

/-! ### The commands -/

theorem decryptPayload_sameUpdate (h : SameOperands s s') (C : Bytes) :
    SameUpdate i s s' (decryptPayload C s) (decryptPayload C s') := by
  rw [decryptPayload, decryptPayload]
  cases detect C with
  | legacy =>
    show SameUpdate i s s' (State.complete (legacyVerdict s.key C) _) (State.complete (legacyVerdict s'.key C) _)
    rw [h.key_eq]
    exact .recorded _ _
  | framed =>
    show SameUpdate i s s' (framedDecode C _) (framedDecode C _)
    rw [framedDecode, framedDecode]
    cases parseFrame C with
    | none => exact .recorded .framed (.error .malformed)
    | some q =>
      obtain ⟨iv, body⟩ := q
      show SameUpdate i s s' (State.complete (framedVerdict s.key iv body) _)
        (State.complete (framedVerdict s'.key iv body) _)
      rw [h.key_eq]
      exact .recordedIv _ _

theorem execDecrypt_sameUpdate (h : SameOperands s s') : SameUpdate i s s' (execDecrypt s) (execDecrypt s') := by
  rw [execDecrypt, execDecrypt, h.kstate, h.len0_eq, h.bufBytes, h.payload_eq]
  split_ifs
  · exact .raise _
  · exact .raise _
  · exact decryptPayload_sameUpdate h _

/-- The checks of an ENCRYPT read the operands alone, so its runs are alike where those of its codec are (R158). -/
theorem encryptWith_sameUpdate {encode encode' : Bytes → Out} (fmt : Format) (h : SameOperands s s')
    (hcodec : ∀ M, SameUpdate i s s' (encode M) (encode' M)) :
    SameUpdate i s s' (encryptWith fmt encode s) (encryptWith fmt encode' s') := by
  rw [encryptWith, encryptWith, h.kstate, h.len0_eq, h.bufBytes, h.payload_eq]
  split_ifs
  · exact .raise _
  · cases plaintextVerdict fmt s.bufBytes s.len0 (s.memReadIn 0 s.len0) with
    | error e => exact .recorded fmt (.error e)
    | ok M => exact hcodec M

theorem legacyEncode_sameUpdate (h : SameOperands s s') (M : Bytes) :
    SameUpdate i s s' (legacyEncode s M) (legacyEncode s' M) := by
  rw [legacyEncode, legacyEncode, h.key_eq]
  exact .recorded .legacy (.ok _)

theorem framedEncode_sameUpdate (h : SameOperands s s') (hd : SameDraw s s') (M : Bytes) :
    SameUpdate .encryptFramed s s' (framedEncode s M) (framedEncode s' M) := by
  obtain ⟨hreq, hvalid, hdata⟩ := hd
  rw [framedEncode, framedEncode, hreq, hvalid, h.key_eq, State.draw16, State.draw16, hdata]
  split_ifs with hr hv
  · exact .recordedIv s.trngData (.ok _)
  · exact .wait rfl (Bool.eq_false_iff.mpr hv)
  · exact .request rfl (Bool.eq_false_iff.mpr hr)

theorem encryptUnsupported_sameUpdate (h : SameOperands s s') :
    SameUpdate i s s' (encryptUnsupported s) (encryptUnsupported s') := by
  rw [encryptUnsupported, encryptUnsupported, h.kstate]
  split_ifs
  · exact .raise _
  · exact .raise _

/-- Every legal command but DERIVE updates two states alike that have the same operands and, for ENCRYPT.FRAMED, the same
draw (R162). -/
theorem exec_sameUpdate (hi : i.isIllegal = false) (hne : i ≠ .derive) (h : SameOperands s s')
    (hd : i = .encryptFramed → SameDraw s s') : SameUpdate i s s' (exec i s) (exec i s') := by
  cases i with
  | derive => exact absurd rfl hne
  | illegal => cases hi
  | decrypt => exact execDecrypt_sameUpdate h
  | encryptLegacy => exact encryptWith_sameUpdate .legacy h (legacyEncode_sameUpdate h)
  | encryptFramed => exact encryptWith_sameUpdate .framed h (framedEncode_sameUpdate h (hd rfl))
  | _ => exact encryptUnsupported_sameUpdate h

/-! ### IN_LEN1 -/

/-- IN_LEN1 is no operand of DECRYPT and ENCRYPT. -/
theorem sameOperands_inLen1Written (s : State) (w : Word) : SameOperands s (s.inLen1Written w) :=
  ⟨rfl, rfl, rfl, rfl, fun _ _ => rfl⟩

theorem complete_inLen1Written {r : Except ErrCode Bytes} {t : State} (w : Word) (h : s.complete r = .next t) :
    (s.inLen1Written w).complete r = .next (t.inLen1Written w) := by
  rcases State.complete_cases h with ⟨B, rfl, rfl⟩ | ⟨e, rfl, rfl⟩
  · rfl
  · rfl

/-- The updates of a command leave IN_LEN1 alone, so they commute with a write of it. -/
theorem SameUpdate.inLen1Written {w : Word} {o o' : Out} {t : State} (h : SameUpdate i s (s.inLen1Written w) o o')
    (ht : o = .next t) : o' = .next (t.inLen1Written w) := by
  cases h with
  | raise e => cases ht; rfl
  | recorded f r => exact complete_inLen1Written (s := s.withFmtUsed f) w ht
  | recordedIv iv r => exact complete_inLen1Written (s := (s.withFmtUsed .framed).withIv iv) w ht
  | request => cases ht; rfl
  | wait => cases ht; rfl

/-- Settles O44: with another IN_LEN1 a command makes the same updates. -/
theorem secondLengthIsIgnored : Obligations.SecondLengthIsIgnored := by
  intro s t w i hne h
  cases hi : i.isIllegal with
  | true =>
    rw [exec_of_isIllegal hi] at h ⊢
    cases h
    rfl
  | false =>
    exact (exec_sameUpdate hi hne (sameOperands_inLen1Written s w) fun _ => ⟨rfl, rfl, rfl⟩).inLen1Written h

/-! ### Results -/

/-- The host sees the same result in the two states: code, OUT_LEN, completion and output (R162). -/
def SameResult (t t' : State) : Prop :=
  t'.err = t.err ∧ t'.outLen = t.outLen ∧ t'.seq = t.seq ∧ t'.done = t.done ∧ ∀ j, t'.outByte j = t.outByte j

/-- The defined bytes after `finish(B)` are bytes of `B`, whatever OUT_BUF held (R33, R152). -/
theorem finished_outByte (B : Bytes) (s : State) (j : Nat) :
    (s.finished B).outByte j = if j < B.length % 2 ^ 32 then B[j]? else none := by
  have hlen : (s.finished B).outLen.toNat = B.length % 2 ^ 32 := BitVec.toNat_ofNat _ _
  by_cases hj : j < B.length % 2 ^ 32
  · have hB : j < B.length := hj.trans_le (Nat.mod_le _ _)
    rw [State.outByte, if_pos ⟨rfl, hlen.symm ▸ hj⟩, State.finished_outBuf, Memory.read_writeBytes_zero _ _ hB,
      if_pos hj]
  · rw [State.outByte_beyond _ (hlen.trans_le (Nat.not_lt.mp hj)), if_neg hj]

/-- A verdict determines the result, whatever state it is entered in. -/
theorem complete_sameResult {r : Except ErrCode Bytes} {t t' : State} (h : s.complete r = .next t)
    (h' : s'.complete r = .next t') : SameResult t t' := by
  cases r with
  | ok B =>
    cases h
    cases h'
    exact ⟨rfl, rfl, rfl, rfl, fun j => (finished_outByte B s' j).trans (finished_outByte B s j).symm⟩
  | error e =>
    cases h
    cases h'
    exact ⟨rfl, rfl, rfl, rfl, fun j => (outByte_of_outLen_zero rfl j).trans (outByte_of_outLen_zero rfl j).symm⟩

/-- The same updates give the same result, where ENCRYPT.FRAMED has its draw. -/
theorem SameUpdate.sameResult {o o' : Out} {t t' : State} (h : SameUpdate i s s' o o')
    (hd : i = .encryptFramed → s.trngReq = true ∧ s.trngValid = true) (ht : o = .next t) (ht' : o' = .next t') :
    SameResult t t' := by
  cases h with
  | raise e => exact complete_sameResult (r := .error e) ht ht'
  | recorded f r => exact complete_sameResult ht ht'
  | recordedIv iv r => exact complete_sameResult ht ht'
  | request hi hreq => exact absurd ((hd hi).1.symm.trans hreq) (by decide)
  | wait hi hvalid => exact absurd ((hd hi).2.symm.trans hvalid) (by decide)

/-- Settles O45: only DERIVE writes the key, and one verdict on the operands determines the result. -/
theorem callsAreIndependent : Obligations.CallsAreIndependent := by
  refine ⟨fun s t i hne h => classEffect_keyKept (exec_classEffect h) hne, ?_⟩
  intro s s' t t' i hi hne hsize hks hkey hlen hin hdraw ht ht'
  have hsame : i = .encryptFramed → SameDraw s s' := fun hf => by
    obtain ⟨hreq, hreq', hvalid, hvalid', hdata⟩ := hdraw hf
    exact ⟨hreq'.trans hreq.symm, hvalid'.trans hvalid.symm, hdata⟩
  have hready : i = .encryptFramed → s.trngReq = true ∧ s.trngValid = true := fun hf => by
    obtain ⟨hreq, -, hvalid, -⟩ := hdraw hf
    exact ⟨hreq, hvalid⟩
  exact (exec_sameUpdate hi hne ⟨hsize, hks, hkey, hlen, hin⟩ hsame).sameResult hready ht ht'

end Sys2Proof.Proofs
end

section
/-! PROOFS. The Legacy codec (43_legacy_codec.md R170 to R174): the verdict of DECRYPT on a Legacy payload, the output of
ENCRYPT.LEGACY, and what DECRYPT makes of such an output. -/

namespace Sys2Proof.Proofs

open Sys2Proof.Machine

/-! ### A verdict entered in a state -/

/-- The state in which a command ends that has a verdict (R163). -/
def completedState (s : State) : Except ErrCode Bytes → State
  | .ok B => s.finished B
  | .error e => s.raised e

theorem complete_eq (s : State) (r : Except ErrCode Bytes) : s.complete r = .next (completedState s r) := by
  cases r <;> rfl

/-- A completion writes none of FMT_USED, IV_REG and the keys. -/
theorem completedState_registers (s : State) (r : Except ErrCode Bytes) :
    (completedState s r).fmtUsed = s.fmtUsed ∧ (completedState s r).ivReg = s.ivReg ∧
      KeysSame s (completedState s r) := by
  cases r <;> exact ⟨rfl, rfl, rfl, rfl, rfl⟩

theorem completedErr_of_verdict {r : Except ErrCode Bytes} {e : ErrCode} (h : r = .error e) (s : State) :
    CompletedErr e (completedState s r) :=
  h ▸ completedErr_raised e s

theorem completedOk_of_verdict {r : Except ErrCode Bytes} {B : Bytes} (h : r = .ok B) (hB : B.length < 2 ^ 32) (s : State) :
    CompletedOk B (completedState s r) :=
  h ▸ completedOk_finished hB s

/-! ### DECRYPT of a Legacy payload -/

section

variable {k C : Bytes} {i : Nat}

/-- Check 1 of R171. -/
theorem legacyVerdict_length (h : C.length % 16 ≠ 0) : legacyVerdict k C = .error .length := by
  rw [legacyVerdict, if_pos h]

/-- Check 2 of R171. -/
theorem legacyVerdict_integrity (h : C.length % 16 = 0) (hm : findMarker (ecbD k C) = none) :
    legacyVerdict k C = .error .integrity := by
  rw [legacyVerdict, if_neg (not_not_intro h)]
  simp only [hm]

/-- Past the first two checks the verdict is that on the bytes before the marker (R170). -/
theorem legacyVerdict_of_marker (h : C.length % 16 = 0) (hm : findMarker (ecbD k C) = some i) :
    legacyVerdict k C = textVerdict ((ecbD k C).take i) := by
  rw [legacyVerdict, if_neg (not_not_intro h)]
  simp only [hm, slice_zero]

end

theorem textVerdict_of_utf8OK {B : Bytes} (h : utf8OK B = true) : textVerdict B = .ok B := if_pos h

theorem textVerdict_of_not_utf8OK {B : Bytes} (h : utf8OK B = false) : textVerdict B = .error .decoding :=
  if_neg (Bool.eq_false_iff.mp h)

/-- DECRYPT of a Legacy payload within the buffer ends with LEGACY_DECODE's verdict (R157, R170). -/
theorem exec_decrypt_legacy {s : State} (hk : s.kstate = .keyed) (hn : s.len0 ≤ s.bufBytes)
    (hC : (s.memReadIn 0 s.len0)[0]? ≠ some 0x01) :
    exec .decrypt s =
      .next (completedState (s.withFmtUsed .legacy) (legacyVerdict s.key (s.memReadIn 0 s.len0))) := by
  have hd : detect (s.memReadIn 0 s.len0) = .legacy :=
    (eq_legacy_iff_ne_framed _).mpr (mt (detect_eq_framed_iff _).mp hC)
  show execDecrypt s = _
  rw [execDecrypt, if_neg (not_not_intro hk), if_neg (Nat.not_lt.mpr hn), decryptPayload, hd, ← complete_eq]
  rfl

/-- Settles O33: each clause is one outcome of LEGACY_DECODE's verdict, entered in a state that records the format. -/
theorem decryptLegacyResult : Obligations.DecryptLegacyResult := by
  intro s hk hn hC
  have he := exec_decrypt_legacy hk hn hC
  have hlen : (s.memReadIn 0 s.len0).length = s.len0 := s.memReadIn_length 0 s.len0
  generalize s.memReadIn 0 s.len0 = C at he hlen ⊢
  obtain ⟨hfmt, hiv, hkeys⟩ := completedState_registers (s.withFmtUsed .legacy) (legacyVerdict s.key C)
  refine ⟨_, he, hfmt, hkeys, hiv, exec_commandFrame he, ?_⟩
  rw [← hlen]
  refine ⟨fun h => ?_, fun h hm => ?_, fun i h hm => ⟨fun hu => ?_, fun hu => ?_⟩⟩
  · exact completedErr_of_verdict (legacyVerdict_length h) _
  · exact completedErr_of_verdict (legacyVerdict_integrity h hm) _
  · exact completedErr_of_verdict ((legacyVerdict_of_marker h hm).trans (textVerdict_of_not_utf8OK hu)) _
  · have hv := (legacyVerdict_of_marker h hm).trans (textVerdict_of_utf8OK hu)
    have hB := legacyVerdict_ok_length_le (key_length s) hv
    have hword : s.len0 < 2 ^ 32 := s.inLen0.isLt
    exact completedOk_of_verdict hv (by omega) _

/-! ### ENCRYPT.LEGACY -/

/-- Once its checks are passed, ENCRYPT.LEGACY finishes with LEGACY_ENCODE's output (R158, R172). -/
theorem exec_encryptLegacy_of_checks {s : State} (hk : s.kstate = .keyed) (hu : utf8OK (s.memReadIn 0 s.len0) = true)
    (ho : outLenOf .legacy s.len0 ≤ s.bufBytes) :
    exec .encryptLegacy s =
      .next ((s.withFmtUsed .legacy).finished (legacyPayload s.key (s.memReadIn 0 s.len0))) := by
  have hn : s.len0 ≤ s.bufBytes := by
    rw [outLenOf] at ho
    omega
  exact encryptWith_of_checks hk hu hn ho

/-- Settles O37: the checks hold, and the output has the length that R173 says. -/
theorem encryptLegacyResult : Obligations.EncryptLegacyResult := by
  intro s hk hu ho hsize
  have he := exec_encryptLegacy_of_checks hk hu ho
  have hlen := legacyPayload_length (key_length s) (s.memReadIn 0 s.len0)
  rw [State.memReadIn_length, outLenOf] at hlen
  have hdone := completedOk_finished (B := legacyPayload s.key (s.memReadIn 0 s.len0)) (by omega) (s.withFmtUsed .legacy)
  obtain ⟨-, -, -, houtLen, -⟩ := id hdone
  exact ⟨_, he, hdone, houtLen.trans hlen, rfl, ⟨rfl, rfl, rfl⟩, rfl, exec_commandFrame he⟩

/-- An ENCRYPT.LEGACY with a key that ends with ERR = 0 has passed its checks, and its output is LEGACY_ENCODE's (R158,
R172). -/
theorem encryptLegacy_completed {s t : State} (hk : s.kstate = .keyed) (hsize : s.bufBytes < 2 ^ 32)
    (he : exec .encryptLegacy s = .next t) (hok : t.err = .ok) :
    utf8OK (s.memReadIn 0 s.len0) = true ∧ (legacyPayload s.key (s.memReadIn 0 s.len0)).length ≤ s.bufBytes ∧
      CompletedOk (legacyPayload s.key (s.memReadIn 0 s.len0)) t := by
  have hfails {e : ErrCode} (hv : plaintextVerdict .legacy s.bufBytes s.len0 (s.memReadIn 0 s.len0) = .error e) :
      e = .ok := by
    have hraised : exec .encryptLegacy s = .next ((s.withFmtUsed .legacy).raised e) := encryptWith_of_error hk hv
    cases he.symm.trans hraised
    exact hok
  rcases plaintextVerdict_cases .legacy s.bufBytes s.len0 (s.memReadIn 0 s.len0) with
    ⟨-, hv⟩ | ⟨-, -, hv⟩ | ⟨-, -, -, hv⟩ | ⟨-, hu, ho, -⟩
  · exact absurd (hfails hv) (by decide)
  · exact absurd (hfails hv) (by decide)
  · exact absurd (hfails hv) (by decide)
  · have hfits : (legacyPayload s.key (s.memReadIn 0 s.len0)).length ≤ s.bufBytes := by
      rwa [legacyPayload_length (key_length s), State.memReadIn_length]
    cases he.symm.trans (exec_encryptLegacy_of_checks hk hu ho)
    exact ⟨hu, hfits, completedOk_finished (by omega) _⟩

/-! ### A UTF-8 string before an ASCII byte -/

/-- The bytes that follow byte 1 of a sequence are no ASCII bytes (R124). -/
theorem utf8Rows_follow_not_ascii : ∀ row ∈ utf8Rows, ∀ r ∈ row.2, 0x7F < r.1.toNat := by
  simp [utf8Rows, or_imp, forall_and]

/-- A well-formed string may be cut before an ASCII byte, which no sequence goes on with: at a cut no byte is still to
come (R124, R174). -/
theorem utf8From_take_of_ascii {B : Bytes} {rs : List ByteRange} {i : Nat} {b : Byte}
    (hrs : ∀ r ∈ rs, 0x7F < r.1.toNat) (h : utf8From rs B = true) (hi : B[i]? = some b) (hb : b.toNat ≤ 0x7F) :
    utf8From rs (B.take i) = true := by
  induction B generalizing rs i with
  | nil => cases hi
  | cons c B ih =>
    cases rs with
    | nil =>
      cases i with
      | zero => rfl
      | succ i =>
        obtain ⟨row, hrow, hc, hB⟩ := utf8OK_cons_iff.mp h
        exact utf8OK_cons_iff.mpr ⟨row, hrow, hc, ih (utf8Rows_follow_not_ascii row hrow) hB hi⟩
    | cons r rs =>
      obtain ⟨_, _, hcons, hc, hB⟩ := utf8From_cons_iff.mp h
      cases hcons
      obtain ⟨hr, hrest⟩ := List.forall_mem_cons.mp hrs
      cases i with
      | zero =>
        cases hi
        have hlo := (inByteRange_iff.mp hc).1
        omega
      | succ i => exact utf8From_cons_iff.mpr ⟨c, B.take i, rfl, hc, ih hrest hB hi⟩

/-! ### The marker in a padded plaintext -/

section

variable {M : Bytes} {i : Nat}

/-- The marker starts with a colon (R11). -/
theorem markerAt_getElem? {D : Bytes} (h : MarkerAt D i) : D[i]? = some 0x3A := by
  have hfirst : ((D.drop i).take 13)[0]? = some 0x3A := by
    rw [h]
    rfl
  rwa [List.getElem?_take_of_lt (by decide), List.getElem?_drop, Nat.add_zero] at hfirst

/-- The appended marker stands after the plaintext (R172). -/
theorem markerAt_pad (M : Bytes) : MarkerAt (pad (M ++ marker)) M.length := by
  rw [MarkerAt, pad, List.append_assoc, List.drop_left, List.take_left' marker_length]

/-- The search finds the appended marker or an earlier one (R174). -/
theorem exists_findMarker_pad (M : Bytes) : ∃ i, i ≤ M.length ∧ findMarker (pad (M ++ marker)) = some i := by
  cases h : findMarker (pad (M ++ marker)) with
  | none => exact absurd (markerAt_pad M) (findMarker_eq_none_iff.mp h _)
  | some i =>
    obtain ⟨-, hleast⟩ := findMarker_eq_some_iff.mp h
    exact ⟨i, Nat.not_lt.mp fun hi => hleast _ hi (markerAt_pad M), rfl⟩

/-- Up to the plaintext's length, the first bytes of the padded string are those of the plaintext. -/
theorem take_pad (hi : i ≤ M.length) : (pad (M ++ marker)).take i = M.take i := by
  rw [pad, List.append_assoc, List.take_append_of_le_length hi]

/-- The plaintext before a marker is UTF-8: the marker's colon cuts it between two characters (R174). -/
theorem utf8OK_take_of_markerAt (hu : utf8OK M = true) (hm : MarkerAt (pad (M ++ marker)) i) (hi : i ≤ M.length) :
    utf8OK (M.take i) = true := by
  rcases hi.eq_or_lt with rfl | hlt
  · rwa [List.take_length]
  · have hcolon : M[i]? = some 0x3A := by
      have hbyte := markerAt_getElem? hm
      rwa [pad, List.append_assoc, List.getElem?_append_left hlt] at hbyte
    exact utf8From_take_of_ascii nofun hu hcolon (by decide)

/-! ### The round trip -/

/-- A payload of ENCRYPT.LEGACY is a whole number of blocks (R173). -/
theorem legacyPayload_whole_blocks {k : Bytes} (hk : k.length = 16) (M : Bytes) : (legacyPayload k M).length % 16 = 0 := by
  rw [legacyPayload_length hk, outLenOf]
  omega

/-- LEGACY_DECODE of LEGACY_ENCODE's output answers the plaintext before the first marker (R174). -/
theorem legacyVerdict_legacyPayload {k : Bytes} (hk : k.length = 16) (hu : utf8OK M = true)
    (hm : findMarker (pad (M ++ marker)) = some i) (hi : i ≤ M.length) :
    legacyVerdict k (legacyPayload k M) = .ok (M.take i) := by
  have hD : ecbD k (legacyPayload k M) = pad (M ++ marker) := by
    rw [legacyPayload, ecbD_ecbE hk (by rw [pad_length]; omega)]
  obtain ⟨hat, -⟩ := findMarker_eq_some_iff.mp hm
  rw [legacyVerdict_of_marker (legacyPayload_whole_blocks hk M) (hD ▸ hm), hD, take_pad hi,
    textVerdict_of_utf8OK (utf8OK_take_of_markerAt hu hat hi)]

/-- A whole number of blocks is no frame, whose header and IV take 25 bytes (R127, R181). -/
theorem parseFrame_of_whole_blocks {C : Bytes} (h : C.length % 16 = 0) : parseFrame C = none := by
  rw [parseFrame_eq_none_iff]
  omega

/-- An output that the host copies to IN_BUF, with its length, is the operand of the next command. -/
theorem memReadIn_of_output {t u : State} {B : Bytes} (ht : CompletedOk B t) (hlen : u.inLen0 = t.outLen)
    (hbytes : ∀ j, j < t.outLen.toNat → some (u.inByte j) = t.outByte j) : u.memReadIn 0 u.len0 = B := by
  obtain ⟨-, -, -, hB, hout, -⟩ := ht
  have hn : u.len0 = t.outLen.toNat := congrArg BitVec.toNat hlen
  refine List.ext_getElem? fun j => ?_
  by_cases hj : j < u.len0
  · rw [u.memReadIn_getElem? 0 _ _ hj, Nat.zero_add, hbytes j (hn ▸ hj), hout]
  · rw [List.getElem?_eq_none (by simpa using hj), List.getElem?_eq_none (by omega)]

/-- A completion with the first `i` bytes of `M` is one with `M` exactly when those are all of it. -/
theorem completedOk_take_iff {v : State} (h : CompletedOk (M.take i) v) (hi : i ≤ M.length) :
    CompletedOk M v ↔ i = M.length := by
  constructor
  · rintro ⟨-, -, -, hM, -⟩
    obtain ⟨-, -, -, hcut, -⟩ := h
    rw [List.length_take_of_le hi] at hcut
    exact hcut.symm.trans hM
  · rintro rfl
    rwa [List.take_length] at h

end

/-- Settles O54: with the first byte 1 the payload takes the Framed arm, whose frame checks it fails; otherwise DECRYPT
answers the plaintext before the first marker, which is the appended one or an earlier one. -/
theorem legacyRoundTrip : Obligations.LegacyRoundTrip := by
  intro s t u M hk hsize he hok hM huk hkey hn hlen hbytes
  obtain ⟨hu, hfits, ht⟩ := encryptLegacy_completed hk hsize he hok
  rw [← hM] at hu hfits ht
  have hC : u.memReadIn 0 u.len0 = legacyPayload s.key M := memReadIn_of_output ht hlen hbytes
  have hkeys : u.key = s.key := congrArg blockBytes hkey
  have hroom : u.len0 ≤ u.bufBytes := by
    rwa [hn, ← u.memReadIn_length 0 u.len0, hC]
  obtain ⟨-, -, -, -, hout, -⟩ := ht
  rw [hout 0, ← hC]
  by_cases hfirst : (u.memReadIn 0 u.len0)[0]? = some 0x01
  · have hframe : parseFrame (u.memReadIn 0 u.len0) = none :=
      parseFrame_of_whole_blocks (hC ▸ legacyPayload_whole_blocks (key_length s) M)
    have hv := (exec_decrypt_framed huk hroom hfirst).trans (framedDecode_malformed hframe)
    refine ⟨_, hv, iff_of_false ?_ fun h => h.1 hfirst, fun h => absurd hfirst h, fun _ => rfl⟩
    rintro ⟨-, -, herr, -⟩
    cases herr
  · obtain ⟨i, hi, hm⟩ := exists_findMarker_pad M
    have hverdict := legacyVerdict_legacyPayload (key_length s) hu hm hi
    rw [← hC, ← hkeys] at hverdict
    have hword : M.length < 2 ^ 32 := hM ▸ (s.memReadIn_length 0 s.len0).trans_lt s.inLen0.isLt
    have hdone := completedOk_of_verdict hverdict ((List.length_take_le' i M).trans_lt hword) (u.withFmtUsed .legacy)
    rw [hm, Option.some.injEq]
    refine ⟨_, exec_decrypt_legacy huk hroom hfirst, ?_, fun _ hne => ?_, fun h => absurd h hfirst⟩
    · rw [completedOk_take_iff hdone hi, and_iff_right hfirst]
    · exact ⟨i, lt_of_le_of_ne hi fun h => hne (congrArg some h), rfl, hdone⟩

end Sys2Proof.Proofs
end

section
/-! PROOFS. The Framed codec (44_framed_codec.md R180 to R188): the unpadding rule, the verdict of DECRYPT on a payload that
passes the frame checks, the output of ENCRYPT.FRAMED, and what DECRYPT makes of that output. -/

namespace Sys2Proof.Proofs

open Sys2Proof.Machine

/-! ### The unpadding rule -/

section

variable {D : Bytes} {p : Byte}

/-- A count that is 0 or exceeds the length is refused (R183). -/
theorem unpad_of_count_out_of_range (hlast : D[D.length - 1]? = some p) (hp : p.toNat = 0 ∨ D.length < p.toNat) :
    unpad D = none := by
  have hzero : p.toNat = 0 → p = 0 := fun h => BitVec.eq_of_toNat_eq h
  rw [← List.getLast?_eq_getElem?] at hlast
  simp only [unpad, hlast]
  exact if_pos (hp.imp_left hzero)

/-- A count within the range is stripped (R183). -/
theorem unpad_of_count_in_range (hlast : D[D.length - 1]? = some p) (hpos : 1 ≤ p.toNat) (hle : p.toNat ≤ D.length) :
    unpad D = some (D.take (D.length - p.toNat)) := by
  have hne : ¬(p = 0 ∨ p.toNat > D.length) := by
    rintro (rfl | hlt)
    · exact absurd hpos (by decide)
    · exact Nat.not_lt.mpr hle hlt
  rw [← List.getLast?_eq_getElem?] at hlast
  simp only [unpad, hlast]
  rw [if_neg hne, slice_zero]

end

/-! ### DECRYPT of a well-formed frame -/

section

variable {k iv body pt : Bytes}

/-- A decryption whose padding count is missing or out of range (checks 5 and 6 of R181). -/
theorem framedVerdict_of_unpad_none (h : unpad (cbcD k iv body) = none) : framedVerdict k iv body = .error .decoding := by
  rw [framedVerdict, h]

/-- Past the padding the verdict is that on the bytes left (check 7 of R181). -/
theorem framedVerdict_of_unpad_some (h : unpad (cbcD k iv body) = some pt) : framedVerdict k iv body = textVerdict pt := by
  rw [framedVerdict, h]

/-- A payload whose header states a 16-byte IV and the `n` bytes after it, in whole blocks, passes the frame checks and splits
there (R181). -/
theorem parseFrame_of_header {C : Bytes} {n : Nat} (hlen : C.length = 25 + n) (hblocks : n % 16 = 0)
    (hiv : beNat ((C.drop 1).take 4) = 16) (hbody : beNat ((C.drop 5).take 4) = n) :
    parseFrame C = some ((C.drop 9).take 16, C.drop 25) := by
  have hrest : (C.drop 25).length = n := by rw [List.length_drop, hlen, Nat.add_sub_cancel_left]
  rw [← frameIvLen_eq] at hiv
  rw [← frameDataLen_eq] at hbody
  rw [parseFrame, hiv, hbody, if_neg (by omega), if_neg (by omega), if_neg (by decide), if_neg (not_not_intro hblocks),
    slice_add C 9 16, slice_add C 25 n, List.take_of_length_le hrest.le]

/-- The state in which FRAMED_DECODE enters its verdict: the format is recorded and IV_REG holds the frame's IV (R160, R182). -/
def framedParsed (s : State) (iv : Bytes) : State := (s.withFmtUsed .framed).withIv (blockOfBytes iv)

/-- A completion after the frame checks: the format, the IV and the keys (R160, R182). -/
theorem completedState_framedParsed (s : State) (hiv : iv.length = 16) (r : Except ErrCode Bytes) :
    (completedState (framedParsed s iv) r).fmtUsed = .framed ∧
      blockBytes (completedState (framedParsed s iv) r).ivReg = iv ∧ KeysSame s (completedState (framedParsed s iv) r) := by
  obtain ⟨hfmt, hreg, hkeys⟩ := completedState_registers (framedParsed s iv) r
  exact ⟨hfmt, by rw [hreg, framedParsed, State.withIv_ivReg, blockBytes_blockOfBytes hiv], hkeys⟩

/-- DECRYPT of a payload that passes the frame checks ends with FRAMED_DECODE's verdict (R157, R180). -/
theorem exec_decrypt_parsed {s : State} (hk : s.kstate = .keyed) (hn : s.len0 ≤ s.bufBytes)
    (hfirst : (s.memReadIn 0 s.len0)[0]? = some 0x01) (hparse : parseFrame (s.memReadIn 0 s.len0) = some (iv, body)) :
    exec .decrypt s = .next (completedState (framedParsed s iv) (framedVerdict s.key iv body)) := by
  rw [exec_decrypt_framed hk hn hfirst, framedDecode, hparse, ← complete_eq]
  rfl

end

/-- Settles O35: the payload parses, and each clause is one outcome of the verdict on its IV and body. -/
theorem decryptFramedResult : Obligations.DecryptFramedResult := by
  intro s C n hk hn hC hfirst hlen hblocks hivLen hbodyLen
  have hparse := parseFrame_of_header hlen hblocks hivLen hbodyLen
  have hiv : ((C.drop 9).take 16).length = 16 := List.length_take_of_le (by rw [List.length_drop]; omega)
  have hD : (cbcD s.key ((C.drop 9).take 16) (C.drop 25)).length = n := by
    rw [cbcD_length (key_length s) hiv, List.length_drop]
    omega
  have hword : n < 2 ^ 32 := by
    have hread : C.length = s.len0 := hC ▸ s.memReadIn_length 0 s.len0
    have hlen0 : s.len0 < 2 ^ 32 := s.inLen0.isLt
    omega
  rw [hC] at hfirst hparse
  have he := exec_decrypt_parsed hk hn hfirst hparse
  rw [← hC] at he
  generalize (C.drop 9).take 16 = iv at *
  obtain ⟨hfmt, hreg, hkeys⟩ := completedState_framedParsed s hiv (framedVerdict s.key iv (C.drop 25))
  refine ⟨_, he, hfmt, hreg, hkeys, exec_commandFrame he, fun hempty => ?_, fun p hp _ => ⟨fun hbad => ?_, fun hpos hle => ?_⟩⟩
  · have hnil : cbcD s.key iv (C.drop 25) = [] := List.eq_nil_of_length_eq_zero (hD.trans hempty)
    exact completedErr_of_verdict (framedVerdict_of_unpad_none (hnil ▸ rfl)) _
  · rw [← hD] at hp hbad
    exact completedErr_of_verdict (framedVerdict_of_unpad_none (unpad_of_count_out_of_range hp hbad)) _
  · have hunpad : unpad (cbcD s.key iv (C.drop 25)) = some ((cbcD s.key iv (C.drop 25)).take (n - p.toNat)) := by
      rw [← hD] at hp hle ⊢
      exact unpad_of_count_in_range hp hpos hle
    have hverdict := framedVerdict_of_unpad_some hunpad
    refine ⟨fun hu => ?_, fun hu => ?_⟩
    · exact completedErr_of_verdict (hverdict.trans (textVerdict_of_not_utf8OK hu)) _
    · exact completedOk_of_verdict (hverdict.trans (textVerdict_of_utf8OK hu))
        ((List.length_take_le' _ _).trans_lt (hD.trans_lt hword)) _

/-! ### ENCRYPT.FRAMED -/

/-- FRAMED_ENCODE's output written out: the header, the IV and the chained encryption (R126, R185). -/
theorem framedPayload_eq {k iv : Bytes} (hk : k.length = 16) (hiv : iv.length = 16) (M : Bytes) :
    framedPayload k iv M =
      [0x01, 0x00, 0x00, 0x00, 0x10] ++ be32 (16 * (M.length / 16 + 1)) ++ iv ++ cbcE k iv (pad M) := by
  have hbody : (cbcE k iv (pad M)).length = 16 * (M.length / 16 + 1) := by
    rw [cbcE_length hk, pad_length, Nat.mul_div_cancel_left _ (by decide)]
  rw [framedPayload, frame, hiv, hbody]
  rfl

/-- The state in which ENCRYPT.FRAMED ends that has its draw (R185, R186). -/
def framedEncrypted (s : State) : State :=
  (((s.withTrngReq false).withFmtUsed .framed).withIv s.trngData).finished
    (framedPayload s.key s.draw16 (s.memReadIn 0 s.len0))

/-- Once its checks are passed and the draw is there, ENCRYPT.FRAMED finishes (R130, R185). -/
theorem exec_encryptFramed_of_draw {s : State} (hk : s.kstate = .keyed) (hu : utf8OK (s.memReadIn 0 s.len0) = true)
    (ho : 25 + 16 * (s.len0 / 16 + 1) ≤ s.bufBytes) (hreq : s.trngReq = true) (hvalid : s.trngValid = true) :
    exec .encryptFramed s = .next (framedEncrypted s) := by
  rw [exec_encryptFramed_of_checks hk hu ho, framedEncode, if_neg (not_not_intro hreq), if_neg (not_not_intro hvalid)]
  rfl

/-- FRAMED_ENCODE's output for the plaintext of a state has OUTLEN bytes (R187). -/
theorem framedPayload_memReadIn_length (s : State) :
    (framedPayload s.key s.draw16 (s.memReadIn 0 s.len0)).length = 25 + 16 * (s.len0 / 16 + 1) := by
  rw [framedPayload_length (key_length s) (draw16_length s), State.memReadIn_length, outLenOf_framed]

/-- The completion of an ENCRYPT.FRAMED whose output fits in a buffer (R152, R185). -/
theorem completedOk_framedEncrypted {s : State} (ho : 25 + 16 * (s.len0 / 16 + 1) ≤ s.bufBytes)
    (hsize : s.bufBytes < 2 ^ 32) :
    CompletedOk (framedPayload s.key s.draw16 (s.memReadIn 0 s.len0)) (framedEncrypted s) :=
  completedOk_finished ((framedPayload_memReadIn_length s).trans_lt (ho.trans_lt hsize)) _

/-- Settles O38: the checks hold and the draw is there, and the output is the frame written out. -/
theorem encryptFramedResult : Obligations.EncryptFramedResult := by
  intro s hk hu ho hsize hreq hvalid
  have he := exec_encryptFramed_of_draw hk hu ho hreq hvalid
  have hdone := completedOk_framedEncrypted ho hsize
  obtain ⟨-, -, -, houtLen, -⟩ := id hdone
  have hpayload := framedPayload_eq (key_length s) (draw16_length s) (s.memReadIn 0 s.len0)
  rw [State.memReadIn_length] at hpayload
  exact ⟨_, he, hpayload ▸ hdone, houtLen.trans (framedPayload_memReadIn_length s), rfl, rfl, ⟨rfl, rfl, rfl⟩,
    exec_commandFrame he⟩

/-! ### The round trip -/

/-- A check that fails gives a code other than 0 (R158, R242). -/
theorem plaintextVerdict_ne_error_ok (fmt : Format) (size n : Nat) (M : Bytes) :
    plaintextVerdict fmt size n M ≠ .error .ok := by
  rcases plaintextVerdict_cases fmt size n M with ⟨-, hv⟩ | ⟨-, -, hv⟩ | ⟨-, -, -, hv⟩ | ⟨-, -, -, hv⟩ <;> rw [hv] <;> nofun

/-- An ENCRYPT with a key that ends with ERR = 0 has passed its checks, whatever its codec (R158). -/
theorem checks_of_encryptWith_ok {fmt : Format} {encode : Bytes → Out} {s t : State} (hk : s.kstate = .keyed)
    (he : encryptWith fmt encode s = .next t) (hok : t.err = .ok) :
    utf8OK (s.memReadIn 0 s.len0) = true ∧ outLenOf fmt s.len0 ≤ s.bufBytes := by
  rcases encryptWith_cases fmt encode s with ⟨hnot, -⟩ | ⟨-, e, hv, hraised⟩ | ⟨-, hv, -⟩
  · exact absurd hk hnot
  · cases he.symm.trans hraised
    obtain rfl : e = .ok := hok
    exact absurd hv (plaintextVerdict_ne_error_ok _ _ _ _)
  · obtain ⟨-, hu, ho, -⟩ := plaintextVerdict_ok_iff.mp hv
    exact ⟨hu, ho⟩

/-- FRAMED_ENCODE's output passes the frame checks and splits into its IV and its body, whatever the IV (R181, R188). -/
theorem parseFrame_framedPayload {k iv M : Bytes} (hk : k.length = 16) (hiv : iv.length = 16)
    (hword : (framedPayload k iv M).length < 2 ^ 32) :
    parseFrame (framedPayload k iv M) = some (iv, cbcE k iv (pad M)) := by
  rw [framedPayload, frame_length] at hword
  have hblocks : (cbcE k iv (pad M)).length % 16 = 0 := by rw [cbcE_length hk, Nat.mul_mod_right]
  exact parseFrame_frame hiv hblocks (by omega)

/-- FRAMED_DECODE of FRAMED_ENCODE's body answers the plaintext: the chaining and the padding are undone (R188). -/
theorem framedVerdict_cbcE_pad {k iv M : Bytes} (hk : k.length = 16) (hiv : iv.length = 16) (hu : utf8OK M = true) :
    framedVerdict k iv (cbcE k iv (pad M)) = .ok M := by
  have hD : cbcD k iv (cbcE k iv (pad M)) = pad M := cbcD_cbcE hk hiv (by rw [pad_length, Nat.mul_mod_right])
  rw [framedVerdict_of_unpad_some (hD ▸ unpad_pad M), textVerdict_of_utf8OK hu]

/-- Settles O53: the ENCRYPT completed, so its checks held and its output is a frame of the draw, which DECRYPT parses back and
decodes to the plaintext. -/
theorem framedRoundTrip : Obligations.FramedRoundTrip := by
  intro s t u hk hsize he hreq hvalid hok huk hkey hn hlen hbytes
  obtain ⟨hu, ho⟩ := checks_of_encryptWith_ok (fmt := .framed) (encode := framedEncode s) hk he hok
  rw [outLenOf_framed] at ho
  cases he.symm.trans (exec_encryptFramed_of_draw hk hu ho hreq hvalid)
  have hC : u.memReadIn 0 u.len0 = framedPayload s.key s.draw16 (s.memReadIn 0 s.len0) :=
    memReadIn_of_output (completedOk_framedEncrypted ho hsize) hlen hbytes
  have hfits : (framedPayload s.key s.draw16 (s.memReadIn 0 s.len0)).length ≤ s.bufBytes :=
    (framedPayload_memReadIn_length s).trans_le ho
  have hroom : u.len0 ≤ u.bufBytes := by rwa [hn, ← u.memReadIn_length 0 u.len0, hC]
  have hparse := parseFrame_framedPayload (key_length s) (draw16_length s) (hfits.trans_lt hsize)
  have hkeys : u.key = s.key := congrArg blockBytes hkey
  have hverdict := framedVerdict_cbcE_pad (key_length s) (draw16_length s) hu
  have hrun := exec_decrypt_parsed huk hroom (hC ▸ rfl) (hC ▸ hparse)
  rw [hkeys] at hrun
  obtain ⟨hfmt, hreg, -⟩ := completedState_framedParsed u (draw16_length s)
    (framedVerdict s.key s.draw16 (cbcE s.key s.draw16 (pad (s.memReadIn 0 s.len0))))
  have hword : (s.memReadIn 0 s.len0).length < 2 ^ 32 := (s.memReadIn_length 0 s.len0).trans_lt s.inLen0.isLt
  exact ⟨_, hrun, completedOk_of_verdict hverdict hword _, hfmt, blockBytes_inj hreg⟩

end Sys2Proof.Proofs
end

section
/-! PROOFS. Facts about the bus that the statements about events share: the address map read backwards (10_state.md R28), and a
transaction outside reset by its kind (20_memory.md R61). -/

namespace Sys2Proof.Proofs

open Sys2Proof.Machine

variable {s : State}

/-- The converse of `regAt_regOffset`: a register stands at its own offset alone (R28). -/
theorem eq_regOffset_of_regAt {n : Nat} {r : Reg} (h : regAt n = some r) : n = regOffset r := by
  unfold regAt at h
  split at h <;> cases h <;> rfl

/-- The converse of `placeOf_regAddr`: a register is reached by its own address alone (R28). -/
theorem eq_regAddr_of_placeOf {n : Nat} {a : Addr} {r : Reg} (h : placeOf n a = some (.reg r)) : a = regAddr r := by
  have hreg : regAt a.toNat = some r := by
    simp only [placeOf] at h
    split_ifs at h
    · obtain ⟨r', hr', hplace⟩ := Option.map_eq_some_iff.mp h
      cases hplace
      exact hr'
    all_goals cases h
  rw [regAddr, ← eq_regOffset_of_regAt hreg, BitVec.ofNat_toNat, BitVec.setWidth_eq]

/-- A read outside reset (R61, R69). -/
theorem busTransaction_read (b : Bool) (a : Addr) (hr : s.rstN = true) :
    busTransaction b (.read a) s = .next (s.busRead a) :=
  if_neg (not_not_intro hr)

/-- A write outside reset (R61). -/
theorem busTransaction_write (b : Bool) (a : Addr) (w : Word) (hr : s.rstN = true) :
    busTransaction b (.write a w) s = busWrite b a w s :=
  if_neg (not_not_intro hr)

end Sys2Proof.Proofs
end

section
/-! PROOFS. The key check of DECRYPT and ENCRYPT and the unsupported formats (60_exceptions.md R247, R248). -/

namespace Sys2Proof.Proofs

open Sys2Proof.Machine

variable {s : State} {i : Instr}

/-! ### The key check -/

/-- The key check is the first of every legal command but DERIVE (R248). -/
theorem exec_of_not_keyed (hk : s.kstate ≠ .keyed) (hi : i.isIllegal = false) (hne : i ≠ .derive) :
    exec i s = .next (s.raised .notKeyed) := by
  have hu : encryptUnsupported s = .next (s.raised .notKeyed) := by rw [encryptUnsupported_eq, if_neg hk]
  cases i with
  | derive => exact absurd rfl hne
  | illegal => cases hi
  | decrypt => exact if_pos hk
  | encryptLegacy => exact if_pos hk
  | encryptFramed => exact if_pos hk
  | _ => exact hu

/-- Settles O31: the command is `raise E_NOT_KEYED`, which writes no register but those of the completion. -/
theorem unkeyedCommandsRaiseNotKeyed : Obligations.UnkeyedCommandsRaiseNotKeyed := by
  intro s i hk hi hne
  have he := exec_of_not_keyed hk hi hne
  exact ⟨_, he, completedErr_raised .notKeyed s, ⟨rfl, rfl, rfl⟩, rfl, rfl, exec_commandFrame he⟩

/-! ### Unsupported formats -/

/-- The classes ENCRYPT.UNSUPPORTED fmt=2 to fmt=15 (R94). -/
def unsupportedClasses : List Instr :=
  [.encryptUnsupportedFmt2, .encryptUnsupportedFmt3, .encryptUnsupportedFmt4, .encryptUnsupportedFmt5,
    .encryptUnsupportedFmt6, .encryptUnsupportedFmt7, .encryptUnsupportedFmt8, .encryptUnsupportedFmt9,
    .encryptUnsupportedFmt10, .encryptUnsupportedFmt11, .encryptUnsupportedFmt12, .encryptUnsupportedFmt13,
    .encryptUnsupportedFmt14, .encryptUnsupportedFmt15]

/-- With a key the classes of the unsupported formats raise E_UNSUPPORTED (R159). -/
theorem exec_of_unsupported (hk : s.kstate = .keyed) (hi : i ∈ unsupportedClasses) :
    exec i s = .next (s.raised .unsupported) := by
  have hu : encryptUnsupported s = .next (s.raised .unsupported) := by rw [encryptUnsupported_eq, if_pos hk]
  cases i with
  | derive | decrypt | encryptLegacy | encryptFramed => exact absurd hi (by decide)
  | illegal => simp [unsupportedClasses] at hi
  | _ => exact hu

/-- The one error of the UTF-8 check (R170, R180). -/
theorem textVerdict_error {pt : Bytes} {e : ErrCode} (h : textVerdict pt = .error e) : e = .decoding := by
  rw [textVerdict] at h
  split at h <;> cases h
  rfl

/-- The errors of LEGACY_DECODE (R171). -/
theorem legacyVerdict_error {k C : Bytes} {e : ErrCode} (h : legacyVerdict k C = .error e) :
    e = .length ∨ e = .integrity ∨ e = .decoding := by
  by_cases hlen : C.length % 16 = 0
  · cases hm : findMarker (ecbD k C) with
    | none => cases (legacyVerdict_integrity hlen hm).symm.trans h; exact .inr (.inl rfl)
    | some i => exact .inr (.inr (textVerdict_error ((legacyVerdict_of_marker hlen hm).symm.trans h)))
  · cases (legacyVerdict_length (k := k) hlen).symm.trans h; exact .inl rfl

/-- The error of FRAMED_DECODE after its frame checks (R181). -/
theorem framedVerdict_error {k iv body : Bytes} {e : ErrCode} (h : framedVerdict k iv body = .error e) : e = .decoding := by
  cases hu : unpad (cbcD k iv body) with
  | none => cases (framedVerdict_of_unpad_none hu).symm.trans h; rfl
  | some pt => exact textVerdict_error ((framedVerdict_of_unpad_some hu).symm.trans h)

/-- A verdict that is no E_UNSUPPORTED leaves another code in ERR (R163). -/
theorem err_of_complete_ne_unsupported {r : Except ErrCode Bytes} {t : State} (hr : r ≠ .error .unsupported)
    (h : s.complete r = .next t) : t.err ≠ .unsupported := by
  rcases State.complete_cases h with ⟨B, -, rfl⟩ | ⟨e, rfl, rfl⟩
  · exact nofun
  · exact fun he => hr (congrArg Except.error he)

/-- DECRYPT has no arm that ends with E_UNSUPPORTED (R157, R247). -/
theorem execDecrypt_err_ne_unsupported {t : State} (h : execDecrypt s = .next t) : t.err ≠ .unsupported := by
  rcases execDecrypt_cases s with
    ⟨-, he⟩ | ⟨-, -, he⟩ | ⟨-, -, -, he⟩ | ⟨-, -, -, -, he⟩ | ⟨-, -, -, iv, body, -, he⟩ <;> rw [he] at h
  · cases h; exact nofun
  · cases h; exact nofun
  · exact err_of_complete_ne_unsupported (fun hv => absurd (legacyVerdict_error hv) (by decide)) h
  · cases h; exact nofun
  · exact err_of_complete_ne_unsupported (fun hv => absurd (framedVerdict_error hv) (by decide)) h

/-- Settles O41: the classes all run `encryptUnsupported`, and DECRYPT's errors are those of its checks and its codecs. -/
theorem unsupportedFormatsRaiseUnsupported : Obligations.UnsupportedFormatsRaiseUnsupported := by
  refine fun s hk => ⟨fun i hi => ?_, fun t ht => execDecrypt_err_ne_unsupported ht⟩
  have he := exec_of_unsupported hk hi
  exact ⟨_, he, completedErr_raised .unsupported s, ⟨rfl, rfl, rfl⟩, rfl, rfl, exec_commandFrame he⟩

end Sys2Proof.Proofs
end

section
/-! PROOFS. The key registers on the bus (10_state.md R24, R25, 60_exceptions.md R259): a transaction commutes with replacing
CIPHER_KEY and TEMP_KEY. -/

namespace Sys2Proof.Proofs

open Sys2Proof.Machine

/-- The state with other keys in CIPHER_KEY and TEMP_KEY. -/
def withKeys (k tk : Block) (s : State) : State := { s with cipherKey := k, tempKey := tk }

/-- The step is answered, and with other keys it is answered the same but for those keys. -/
def KeysUnseen (k tk : Block) (s : State) : Prop :=
  ∃ u, step s = .next u ∧ step (withKeys k tk s) = .next (withKeys k tk u)

variable {s : State} {rest : List Input} {a : Addr}

/-- No register reads a key (R24, R25). -/
theorem readReg_withKeys (k tk : Block) (s : State) (r : Reg) : (withKeys k tk s).readReg r = s.readReg r := by
  cases r <;> rfl

/-- A read, by the place it reaches. -/
theorem keysUnseen_of_read (k tk : Block) (hr : s.rstN = true) (hin : s.inputs = .bus (.read a) :: rest) :
    KeysUnseen k tk s := by
  cases hp : placeOf s.bufBytes a with
  | none => exact ⟨_, step_read_nowhere hr hp hin, step_read_nowhere (s := withKeys k tk s) hr hp hin⟩
  | some p =>
    cases p with
    | inBuf o => exact ⟨_, step_read_inBuf hr hp hin, step_read_inBuf (s := withKeys k tk s) hr hp hin⟩
    | outBuf o => exact ⟨_, step_read_outBuf hr hp hin, step_read_outBuf (s := withKeys k tk s) hr hp hin⟩
    | reg r =>
      obtain rfl := eq_regAddr_of_placeOf hp
      have hread := step_read_reg (s := withKeys k tk s) r hr hin
      rw [readReg_withKeys] at hread
      exact ⟨_, step_read_reg r hr hin, hread⟩

/-- A write of CMD or of an operand length while BUSY, refused whatever the keys are (R67). -/
theorem keysUnseen_of_refused (k tk : Block) {r : Reg} {w : Word} {c : Instr} (hr : s.rstN = true) (hq : s.seq = .busy c)
    (hreg : r = .cmd ∨ r = .inLen0 ∨ r = .inLen1) (hin : s.inputs = .bus (.write (regAddr r) w) :: rest) :
    KeysUnseen k tk s :=
  ⟨_, step_write_reg_busy hr hq hreg hin, step_write_reg_busy (s := withKeys k tk s) hr hq hreg hin⟩

/-- A CMD write, by SEQ and by the class of the word (R150). -/
theorem keysUnseen_of_write_cmd (k tk : Block) {w : Word} (hr : s.rstN = true)
    (hin : s.inputs = .bus (.write (regAddr .cmd) w) :: rest) : KeysUnseen k tk s := by
  cases hq : s.seq with
  | busy c => exact keysUnseen_of_refused k tk hr hq (.inl rfl) hin
  | idle =>
    obtain ⟨-, hillegal, hlegal⟩ := cmdWriteIssuesCommand s w rest hr hin
    obtain ⟨-, hillegal', hlegal'⟩ := cmdWriteIssuesCommand (withKeys k tk s) w rest hr hin
    cases hw : (decodeWord w).isIllegal with
    | true =>
      obtain ⟨-, hstep⟩ := hillegal hq hw
      obtain ⟨-, hstep'⟩ := hillegal' hq hw
      exact ⟨_, hstep, hstep'⟩
    | false => exact ⟨_, hlegal hq hw, hlegal' hq hw⟩

/-- A write of a register: some look at SEQ, and none at the keys (R30 to R38, R67). -/
theorem keysUnseen_of_write_reg (k tk : Block) {r : Reg} {w : Word} (hr : s.rstN = true)
    (hin : s.inputs = .bus (.write (regAddr r) w) :: rest) : KeysUnseen k tk s := by
  cases r with
  | cmd => exact keysUnseen_of_write_cmd k tk hr hin
  | inLen0 =>
    cases hq : s.seq with
    | idle => exact ⟨_, step_write_inLen0 hr hq hin, step_write_inLen0 (s := withKeys k tk s) hr hq hin⟩
    | busy c => exact keysUnseen_of_refused k tk hr hq (.inr (.inl rfl)) hin
  | inLen1 =>
    cases hq : s.seq with
    | idle => exact ⟨_, step_write_inLen1 hr hq hin, step_write_inLen1 (s := withKeys k tk s) hr hq hin⟩
    | busy c => exact keysUnseen_of_refused k tk hr hq (.inr (.inr rfl)) hin
  | _ => exact ⟨_, step_write_reg _ hr hin, step_write_reg (s := withKeys k tk s) _ hr hin⟩

/-- A write, by the place it reaches. -/
theorem keysUnseen_of_write (k tk : Block) {w : Word} (hr : s.rstN = true)
    (hin : s.inputs = .bus (.write a w) :: rest) : KeysUnseen k tk s := by
  cases hp : placeOf s.bufBytes a with
  | none => exact ⟨_, step_write_nowhere hr hp hin, step_write_nowhere (s := withKeys k tk s) hr hp hin⟩
  | some p =>
    cases p with
    | reg r =>
      obtain rfl := eq_regAddr_of_placeOf hp
      exact keysUnseen_of_write_reg k tk hr hin
    | outBuf o => exact ⟨_, step_write_outBuf hr hp hin, step_write_outBuf (s := withKeys k tk s) hr hp hin⟩
    | inBuf o =>
      cases hq : s.seq with
      | idle => exact ⟨_, step_write_inBuf_idle hr hq hp hin, step_write_inBuf_idle (s := withKeys k tk s) hr hq hp hin⟩
      | busy c => exact ⟨_, step_write_inBuf_busy hr hq hp hin, step_write_inBuf_busy (s := withKeys k tk s) hr hq hp hin⟩

/-- Settles O30: a transaction that is answered came outside reset, and is a read or a write. -/
theorem noBusTransactionShowsTheKeys : Obligations.NoBusTransactionShowsTheKeys := by
  intro s t k tk x rest hin h
  obtain ⟨hr, -⟩ := busTransaction_cases ((step_cons hin).symm.trans h)
  have hunseen : KeysUnseen k tk s := by
    cases x with
    | read a => exact keysUnseen_of_read k tk hr hin
    | write a w => exact keysUnseen_of_write k tk hr hin
  obtain ⟨u, hu, hu'⟩ := hunseen
  cases hu.symm.trans h
  exact hu'

end Sys2Proof.Proofs
end

section
/-! PROOFS. Who sets DONE (60_exceptions.md R241): a completion, or the CMD write of an illegal word. -/

namespace Sys2Proof.Proofs

open Sys2Proof.Machine

variable {s t u : State}

/-! ### The engine -/

/-- A command that sets DONE has completed: SEQ is IDLE (R240, R241). -/
theorem commandEffect_idle_of_sets_done (h : CommandEffect s t) (hs : s.done = false) (ht : t.done = true) :
    t.seq = .idle := by
  cases h with
  | requested | waited => exact absurd (hs.symm.trans ht) (by decide)
  | _ => rfl

/-- A turn of the engine that sets DONE ended a running command. -/
theorem engineTurn_sets_done (h : engineTurn s = .next t) (hs : s.done = false) (ht : t.done = true) :
    s.seq.isBusy = true ∧ t.seq = .idle := by
  rcases engineTurn_cases h with ⟨rfl, -⟩ | ⟨-, c, hq, hc, he⟩
  · exact absurd (hs.symm.trans ht) (by decide)
  · exact ⟨isBusy_iff.mpr ⟨c, hq⟩, commandEffect_idle_of_sets_done (exec_cases hc he) hs ht⟩

/-! ### The bus -/

/-- A transaction that leaves DONE at 1 has accepted no command (R151). -/
theorem busEffect_keeps_idle_of_done (h : BusEffect s t) (hq : s.seq = .idle) (ht : t.done = true) : t.seq = .idle := by
  cases h with
  | accepted => cases ht
  | _ => exact hq

/-- A write of an operand place leaves DONE as it was (R67). -/
theorem operandWrite_done (f : State → State) (hf : (f s).done = s.done) : (s.operandWrite f).done = s.done := by
  rcases operandWrite_cases f s with ⟨-, he⟩ | ⟨-, he⟩ <;> rw [he]
  · exact hf
  · rfl

/-- No write of a register but CMD sets DONE (R30 to R38). -/
theorem writeReg_done_eq_false {b : Bool} {r : Reg} {w : Word} (hne : r ≠ .cmd) (h : writeReg b r w s = .next t)
    (hs : s.done = false) : t.done = false := by
  cases r with
  | cmd => exact absurd rfl hne
  | status => cases h; rw [State.answered_done, State.statusWritten_done, hs, Bool.false_and]
  | inLen0 | inLen1 => cases h; exact (operandWrite_done _ rfl).trans hs
  | _ => cases h; exact hs

/-- A CMD write sets DONE only with an illegal word, while IDLE (R154). -/
theorem issueCommand_sets_done {w : Word} (h : issueCommand w s = .next t) (hs : s.done = false) (ht : t.done = true) :
    (decodeWord w).isIllegal = true ∧ t.seq = .idle := by
  rcases issueCommand_cases w s with ⟨-, he⟩ | ⟨hq, hc, he⟩ | ⟨-, -, he⟩ <;> cases he.symm.trans h
  · exact absurd (hs.symm.trans ht) (by decide)
  · exact ⟨hc, hq⟩
  · cases ht

/-- A write that sets DONE is a CMD write of an illegal word (R154). -/
theorem busWrite_sets_done {b : Bool} {a : Addr} {w : Word} (h : busWrite b a w s = .next t) (hs : s.done = false)
    (ht : t.done = true) : a = regAddr .cmd ∧ (decodeWord w).isIllegal = true ∧ t.seq = .idle := by
  cases hp : placeOf s.bufBytes a with
  | none =>
    rw [busWrite, hp] at h
    cases h
    exact absurd (hs.symm.trans ht) (by decide)
  | some p =>
    rw [busWrite, hp] at h
    cases p with
    | inBuf o =>
      cases h
      rw [operandWrite_done _ rfl] at ht
      exact absurd (hs.symm.trans ht) (by decide)
    | outBuf o =>
      cases h
      exact absurd (hs.symm.trans ht) (by decide)
    | reg r =>
      by_cases hr : r = .cmd
      · subst hr
        exact ⟨eq_regAddr_of_placeOf hp, issueCommand_sets_done h hs ht⟩
      · exact absurd ((writeReg_done_eq_false hr h hs).symm.trans ht) (by decide)

/-- The transaction is a CMD write of an illegal word (R95, R154). -/
def IllegalIssue (x : BusTx) : Prop := ∃ w, (decodeWord w).isIllegal = true ∧ x = .write 0x008 w

/-- A transaction that sets DONE is a CMD write of an illegal word, which leaves SEQ IDLE (R154, R241). -/
theorem busTransaction_sets_done {b : Bool} {x : BusTx} (h : busTransaction b x s = .next t) (hs : s.done = false)
    (ht : t.done = true) : IllegalIssue x ∧ t.seq = .idle := by
  obtain ⟨hr, -⟩ := busTransaction_cases h
  cases x with
  | read a =>
    cases (busTransaction_read b a hr).symm.trans h
    obtain ⟨r, he | he⟩ := busRead_cases a s <;> rw [he] at ht <;> exact absurd (hs.symm.trans ht) (by decide)
  | write a w =>
    obtain ⟨rfl, hw, hq⟩ := busWrite_sets_done ((busTransaction_write b a w hr).symm.trans h) hs ht
    exact ⟨⟨w, hw, rfl⟩, hq⟩

/-! ### The obligation -/

/-- A turn of the engine with a transaction in its cycle sets DONE in the turn, where the transaction then keeps SEQ IDLE, or
in the transaction (R253). -/
theorem engineAndBus_sets_done {x : BusTx} (h : engineAndBus x s = .next t) (hs : s.done = false) (ht : t.done = true) :
    t.seq = .idle ∧ (s.seq.isBusy = true ∨ IllegalIssue x) := by
  obtain ⟨u, hu, hx⟩ := engineAndBus_cases h
  cases hd : u.done with
  | true =>
    obtain ⟨hbusy, hq⟩ := engineTurn_sets_done hu hs hd
    exact ⟨busEffect_keeps_idle_of_done (busTransaction_cases hx).2 hq ht, .inl hbusy⟩
  | false =>
    obtain ⟨hissue, hq⟩ := busTransaction_sets_done hx hd ht
    exact ⟨hq, .inr hissue⟩

/-- Settles O24: by the move at the head of the list; the TRNG and the reset line set nothing. -/
theorem onlyCompletionSetsDone : Obligations.OnlyCompletionSetsDone := by
  intro s t h hs ht
  cases hin : s.inputs with
  | nil =>
    rw [step_nil hin] at h
    obtain ⟨hbusy, hq⟩ := engineTurn_sets_done h hs ht
    exact ⟨hq, .inl hbusy⟩
  | cons i rest =>
    rw [step_cons hin] at h
    cases i with
    | engine =>
      obtain ⟨hbusy, hq⟩ := engineTurn_sets_done (s := s.withInputs rest) h hs ht
      exact ⟨hq, .inl hbusy⟩
    | bus x =>
      obtain ⟨⟨w, hw, rfl⟩, hq⟩ := busTransaction_sets_done (s := s.withInputs rest) h hs ht
      exact ⟨hq, .inr ⟨w, rest, hw, .inl rfl⟩⟩
    | engineAnd x =>
      obtain ⟨hq, hbusy | ⟨w, hw, rfl⟩⟩ := engineAndBus_sets_done (s := s.withInputs rest) h hs ht
      · exact ⟨hq, .inl hbusy⟩
      · exact ⟨hq, .inr ⟨w, rest, hw, .inr rfl⟩⟩
    | trng v d =>
      cases h
      exact absurd (hs.symm.trans ht) (by decide)
    | rst level =>
      cases h
      cases level with
      | true => exact absurd (hs.symm.trans ht) (by decide)
      | false => cases ht

end Sys2Proof.Proofs
end
section
/-! PROOFS. The cycle of a completion (60_exceptions.md R253): the transaction comes after it, and only a write of STATUS tells
the cycle of a completion from any other. -/

namespace Sys2Proof.Proofs

open Sys2Proof.Machine

variable {s u : State} {x : BusTx} {rest : List Input}

/-! ### Which transactions see the completion -/

/-- A write that reaches no STATUS is the same in the cycle of a completion and in any other. -/
theorem busWrite_of_not_status {a : Addr} (b : Bool) (w : Word) (ha : a ≠ regAddr .status) :
    busWrite b a w s = busWrite false a w s := by
  cases hp : placeOf s.bufBytes a with
  | none => rw [busWrite, busWrite, hp]
  | some p =>
    rw [busWrite, busWrite, hp]
    cases p with
    | inBuf o => rfl
    | outBuf o => rfl
    | reg r =>
      cases r with
      | status => exact absurd (eq_regAddr_of_placeOf hp) ha
      | _ => rfl

/-- A write of another address is no write of STATUS. -/
theorem write_ne_statusWrite {a : Addr} {w : Word} (ha : a ≠ regAddr .status) : ∀ w', BusTx.write a w ≠ .write 0x00C w' :=
  fun _ h => ha (BusTx.write.inj h).1

/-- A transaction that is no write of STATUS is the same in the cycle of a completion and in any other. -/
theorem busTransaction_of_not_status (b : Bool) (hr : s.rstN = true) (hx : ∀ w, x ≠ .write 0x00C w) :
    busTransaction b x s = busTransaction false x s := by
  cases x with
  | read a => rfl
  | write a w =>
    rw [busTransaction_write b a w hr, busTransaction_write false a w hr]
    exact busWrite_of_not_status b w fun ha => hx w (congrArg (BusTx.write · w) ha)

/-- A write of STATUS in the cycle of a completion changes nothing: a W1C of DONE loses (R253). -/
theorem busTransaction_status_completed (w : Word) (hr : s.rstN = true) :
    busTransaction true (.write 0x00C w) s = .next { s with busResult := .write .okay } := by
  have hkeep : s.statusWritten true w = s := by
    rw [State.statusWritten, Bool.not_true, Bool.and_false, Bool.not_false, Bool.and_true]
  have hwrite : busWrite true 0x00C w s = .next ((s.statusWritten true w).answered (.write .okay)) := rfl
  rw [busTransaction_write true _ w hr, hwrite, hkeep]
  rfl

/-! ### The step -/

/-- A command that ends with SEQ IDLE has completed: DONE is 1 (R152, R240). -/
theorem commandEffect_done_of_idle {c : Instr} (hq : s.seq = .busy c) (h : CommandEffect s u) (hu : u.seq = .idle) :
    u.done = true := by
  cases h with
  | requested | waited => cases hq.symm.trans hu
  | _ => rfl

/-- A turn of the engine with a transaction in its cycle, when the turn is answered (R253). -/
theorem step_engineAnd (hin : s.inputs = .engineAnd x :: rest) (hu : engineTurn (s.withInputs rest) = .next u) :
    step s = busTransaction (completedIn (s.withInputs rest) u) x u := by
  rw [step_cons hin, performInput, engineAndBus, hu]

/-- The state with a transaction put before its other moves. -/
def withNextBus (x : BusTx) (u : State) : State := u.withInputs (.bus x :: u.inputs)

theorem step_withNextBus (x : BusTx) (u : State) : step (withNextBus x u) = busTransaction false x u :=
  step_cons (s := withNextBus x u) rfl

/-- The step of a completion with a transaction in its cycle: the transaction is performed in the completed state, which has the
moves after it to come, and its effect on DONE is that of a completion's cycle. -/
theorem step_completion {c : Instr} (hr : s.rstN = true) (hq : s.seq = .busy c) (hc : c.isIllegal = false)
    (he : exec c (s.withInputs rest) = .next u) (hu : u.seq = .idle) (hin : s.inputs = .engineAnd x :: rest) :
    step s = busTransaction true x u ∧ u.done = true ∧ u.rstN = true ∧ u.inputs = rest ∧ u.bufBytes = s.bufBytes ∧
      u.inBuf = s.inBuf := by
  have hturn : engineTurn (s.withInputs rest) = .next u := (engineTurn_busy (s := s.withInputs rest) hr hq hc).trans he
  have hcompleted : completedIn (s.withInputs rest) u = true := by
    rw [completedIn, State.withInputs_seq, hq, hu]
    rfl
  obtain ⟨hsize, hbuf, -, -, -, -, -, hrst, -, hins, -, -⟩ := exec_frame he
  have hdone : u.done = true := commandEffect_done_of_idle (s := s.withInputs rest) hq (exec_cases hc he) hu
  have hstep : step s = busTransaction true x u := by rw [step_engineAnd hin hturn, hcompleted]
  exact ⟨hstep, hdone, hrst.trans hr, hins, hsize, hbuf⟩

/-- An aligned offset within the IN_BUF window is not the address of STATUS (R62). -/
theorem inBufAddr_ne_status {n o : Nat} (hv : Config.validBufBytes n = true) (h4 : o % 4 = 0) (ho : o < n) :
    BitVec.ofNat 18 (0x10000 + o) ≠ regAddr .status := by
  intro ha
  have hin := placeOf_inBufAddr hv h4 ho
  rw [ha, regAddr, placeOf_regAddr] at hin
  cases hin

/-- A turn of the idle engine leaves the transaction in its cycle as the next move (R264). -/
theorem step_engineAnd_idle (hq : s.seq = .idle) (hin : s.inputs = .engineAnd x :: rest) :
    step s = step { s with inputs := .bus x :: rest } := by
  have hturn := engineTurn_idle (s := s.withInputs rest) hq
  have hidle : completedIn (s.withInputs rest) (s.withInputs rest) = false := by
    rw [completedIn, State.withInputs_seq, hq]
    rfl
  rw [step_engineAnd hin hturn, hidle]
  exact (step_withNextBus x (s.withInputs rest)).symm

/-- Settles O22: but for a write of STATUS the step is that of the transaction as the next move in the completed state, where
SEQ is IDLE and the rule of each place says what it does. -/
theorem completionBeatsSameCycleClear : Obligations.CompletionBeatsSameCycleClear := by
  refine ⟨fun s u c x rest hr hq hc he hu hin => ?_, fun s x rest _ hq hin => step_engineAnd_idle hq hin⟩
  obtain ⟨hstep, hdone, hru, rfl, hsize, hbuf⟩ := step_completion hr hq hc he hu hin
  have hafter (hx : ∀ w, x ≠ .write 0x00C w) : step s = step (withNextBus x u) := by
    rw [hstep, busTransaction_of_not_status true hru hx, step_withNextBus]
  refine ⟨hafter, ?status, ?ctrl, ?inLen0, ?inLen1, ?inBuf, ?legal, ?illegal⟩
  case status =>
    rintro w rfl
    exact ⟨hstep.trans (busTransaction_status_completed w hru), hdone⟩
  case ctrl =>
    rintro w rfl
    exact (hafter (write_ne_statusWrite (by decide))).trans (step_write_ctrl (s := withNextBus _ u) hru rfl)
  case inLen0 =>
    rintro w rfl
    exact (hafter (write_ne_statusWrite (by decide))).trans (step_write_inLen0 (s := withNextBus _ u) hru hu rfl)
  case inLen1 =>
    rintro w rfl
    exact (hafter (write_ne_statusWrite (by decide))).trans (step_write_inLen1 (s := withNextBus _ u) hru hu rfl)
  case inBuf =>
    rintro o w rfl hv h4 ho
    have hp := placeOf_inBufAddr hv h4 ho
    rw [← hsize] at hp
    refine ⟨_, (hafter (write_ne_statusWrite (inBufAddr_ne_status hv h4 ho))).trans
      (step_write_inBuf_idle (s := withNextBus _ u) hru hu hp rfl), rfl, inWordWritten_inByte u o w, fun i hi => ?_⟩
    rw [← hbuf]
    exact inWordWritten_read_outside u w hi
  case legal =>
    rintro w rfl hw
    exact (hafter (write_ne_statusWrite (by decide))).trans (step_write_cmd_legal (s := withNextBus _ u) hru hu hw rfl)
  case illegal =>
    rintro w rfl hw
    exact (hafter (write_ne_statusWrite (by decide))).trans
      ((step_write_cmd_illegal (s := withNextBus _ u) hru hu hw rfl).trans (exec_of_isIllegal hw _))

end Sys2Proof.Proofs
end

section
/-! PROOFS. How many turns a command takes (70_reset_and_hazards.md R285): one, and one more for a Framed ENCRYPT that must
first ask for its draw (40_datapath_units.md R130). -/

namespace Sys2Proof.Proofs

open Sys2Proof.Machine

variable {s t : State} {c : Instr}

/-- A command has ended: SEQ is IDLE and DONE is 1 (R152, R240). -/
def CommandEnded (t : State) : Prop := t.seq = .idle ∧ t.done = true

/-! ### What one turn does -/

/-- With no moves pending a step is the accepted command's turn (R77, R150). -/
theorem step_busy_of_no_inputs (hr : s.rstN = true) (hq : s.seq = .busy c) (hc : c.isIllegal = false)
    (hin : s.inputs = []) : step s = exec c s :=
  (step_nil hin).trans (engineTurn_busy hr hq hc)

/-- Only a Framed ENCRYPT can leave a command running: it alone asks for a draw or waits for one (R129). -/
theorem classEffect_ends (hc : c.isIllegal = false) (hne : c ≠ .encryptFramed) (h : ClassEffect s c t) : CommandEnded t := by
  cases h with
  | illegal => cases hc
  | requested | waited => exact absurd rfl hne
  | _ => exact ⟨rfl, rfl⟩

/-- While trng_valid is 1 a Framed ENCRYPT does not wait: it ends, or it raises a request that was not up (R130, R185). -/
theorem encryptFramed_ends_or_requests (hv : s.trngValid = true) (h : exec .encryptFramed s = .next t) :
    CommandEnded t ∨ (s.trngReq = false ∧ t = s.withTrngReq true) := by
  replace h : encryptWith .framed (framedEncode s) s = .next t := h
  rcases encryptWith_cases .framed (framedEncode s) s with ⟨-, he⟩ | ⟨-, e, -, he⟩ | ⟨-, -, he⟩ <;> rw [he] at h
  · cases h
    exact .inl ⟨rfl, rfl⟩
  · cases h
    exact .inl ⟨rfl, rfl⟩
  · rcases framedEncode_cases s (s.memReadIn 0 s.len0) with ⟨hreq, hf⟩ | ⟨-, hlow, -⟩ | ⟨-, -, hf⟩
    · cases hf.symm.trans h
      exact .inr ⟨hreq, rfl⟩
    · exact absurd (hlow.symm.trans hv) (by decide)
    · cases hf.symm.trans h
      exact .inl ⟨rfl, rfl⟩

/-- With its request up and trng_valid at 1, a Framed ENCRYPT ends in its turn (R130, R185). -/
theorem encryptFramed_ends_of_request (hreq : s.trngReq = true) (hv : s.trngValid = true)
    (h : exec .encryptFramed s = .next t) : CommandEnded t := by
  rcases encryptFramed_ends_or_requests hv h with hend | ⟨hlow, -⟩
  · exact hend
  · exact absurd (hlow.symm.trans hreq) (by decide)

/-! ### The steps to completion -/

/-- Every legal class but ENCRYPT.FRAMED ends in one step (R285). -/
theorem step_ends_command (hr : s.rstN = true) (hq : s.seq = .busy c) (hc : c.isIllegal = false) (hin : s.inputs = [])
    (hne : c ≠ .encryptFramed) : ∃ t, step s = .next t ∧ CommandEnded t := by
  obtain ⟨t, ht⟩ := exec_next c s
  exact ⟨t, (step_busy_of_no_inputs hr hq hc hin).trans ht, classEffect_ends hc hne (exec_classEffect ht)⟩

/-- The step of a Framed ENCRYPT whose request is up and whose draw is there ends it (R130, R285). -/
theorem step_ends_requested_encryptFramed (hr : s.rstN = true) (hq : s.seq = .busy .encryptFramed) (hin : s.inputs = [])
    (hreq : s.trngReq = true) (hv : s.trngValid = true) : ∃ t, step s = .next t ∧ CommandEnded t := by
  obtain ⟨t, ht⟩ := exec_next .encryptFramed s
  exact ⟨t, (step_busy_of_no_inputs hr hq rfl hin).trans ht, encryptFramed_ends_of_request hreq hv ht⟩

/-- A Framed ENCRYPT has ended after two steps: the first ends it, and the idle engine's turn keeps it ended (R264), or the
first raises the request that the second finds up. -/
theorem two_steps_end_encryptFramed (hr : s.rstN = true) (hq : s.seq = .busy .encryptFramed) (hin : s.inputs = [])
    (hv : s.trngValid = true) : ∃ t u, step s = .next t ∧ step t = .next u ∧ CommandEnded u := by
  obtain ⟨t, ht⟩ := exec_next .encryptFramed s
  have hstep : step s = .next t := (step_busy_of_no_inputs hr hq rfl hin).trans ht
  rcases encryptFramed_ends_or_requests hv ht with hend | ⟨-, rfl⟩
  · obtain ⟨-, -, -, -, -, -, -, -, -, hins, -⟩ := exec_frame ht
    obtain ⟨hidle, -⟩ := id hend
    exact ⟨t, t, hstep, (step_nil (hins.trans hin)).trans (engineTurn_idle hidle), hend⟩
  · obtain ⟨u, hu, hend⟩ := step_ends_requested_encryptFramed (s := s.withTrngReq true) hr hq hin rfl hv
    exact ⟨_, u, hstep, hu, hend⟩

/-- Settles O43: one step for every class but ENCRYPT.FRAMED, two for that. -/
theorem commandsComplete : Obligations.CommandsComplete := by
  intro s c hr hq hc hin
  refine ⟨fun hne => step_ends_command hr hq hc hin hne, ?_⟩
  rintro rfl hv
  exact two_steps_end_encryptFramed hr hq hin hv

end Sys2Proof.Proofs
end
